-- ==== Sys2Proof/Word.lean ====
section
/-! DEFINITION. The words of io-gate FCF: bytes and the field widths of `spec/00_scope.md` rules R9 and R13. -/

namespace Sys2Proof

/-- A byte is a `u8` (R13). -/
abbrev Byte := BitVec 8

/-- A device address, 6 bits, 0 to 63 (R9, R20, R76). -/
abbrev DevAddr := BitVec 6

/-- A message-type code, 5 bits, 0 to 31 (R9, R20). -/
abbrev TypeCode := BitVec 5

/-- The fixed 8-byte payload buffer of a record (R9, R20), by byte offset. -/
structure Payload where
  b0 : Byte
  b1 : Byte
  b2 : Byte
  b3 : Byte
  b4 : Byte
  b5 : Byte
  b6 : Byte
  b7 : Byte
  deriving DecidableEq, Repr

/-- The payload as the list of its 8 bytes, offset 0 first (R14). -/
def Payload.toList (p : Payload) : List Byte :=
  [p.b0, p.b1, p.b2, p.b3, p.b4, p.b5, p.b6, p.b7]

/-- The byte at payload offset `i` (R231); there are 8 offsets (R37). -/
def Payload.get (p : Payload) (i : Nat) : Byte := p.toList.getD i 0

/-- The payload of eight zero bytes. -/
def Payload.zero : Payload := ⟨0, 0, 0, 0, 0, 0, 0, 0⟩

end Sys2Proof
end

