-- ==== Sys2Proof/Config.lean ====
section
/-! DEFINITION. The parameters of the block (`spec/00_scope.md` rule R8): what an implementation fixes before reset.
They are a plain-data argument of the model, carried by the state and never written by a step (log entry 3). -/

namespace Sys2Proof

/-- Parameter `TRIGGER_CODE`: one byte per member of Trigger (R8, R99). -/
structure TriggerCodes where
  shortClick : Byte
  longClick : Byte
  activated : Byte
  deactivated : Byte
  longActivated : Byte
  longDeactivated : Byte
  deriving DecidableEq, Repr

/-- Parameter `OUTSTATE_CODE` but for `On`, whose code 1 is fixed (R8, R99, R254). -/
structure OutStateCodes where
  off : Byte
  toggle : Byte
  deriving DecidableEq, Repr

/-- Parameter `IOSTATE_CODE` (R8, R99). -/
structure IoStateCodes where
  off : Byte
  on : Byte
  deriving DecidableEq, Repr

/-- The parameters of rule R8. -/
structure Config where
  chunkSize : Nat
  ingCap : Nat
  egrCap : Nat
  trigger : TriggerCodes
  outState : OutStateCodes
  ioState : IoStateCodes
  deriving DecidableEq, Repr

/-- The reference column of rule R8, which the test vectors use. -/
def Config.reference : Config where
  chunkSize := 512
  ingCap := 15
  egrCap := 15
  trigger := ⟨0, 1, 2, 3, 4, 5⟩
  outState := ⟨0, 2⟩
  ioState := ⟨0, 1⟩

/-- The constraint column of rule R8: sizes in range and the three code maps injective. -/
def Config.legal (c : Config) : Bool :=
  decide (512 ≤ c.chunkSize) && decide (1 ≤ c.ingCap) && decide (1 ≤ c.egrCap) &&
  decide [c.trigger.shortClick, c.trigger.longClick, c.trigger.activated, c.trigger.deactivated,
    c.trigger.longActivated, c.trigger.longDeactivated].Nodup &&
  decide [c.outState.off, (1 : Byte), c.outState.toggle].Nodup &&
  decide [c.ioState.off, c.ioState.on].Nodup

end Sys2Proof
end

