-- ==== Sys2Proof/Syntax.lean ====
section
/-! DEFINITION. What the machine's transactions are made of: records, read and write results, typed messages
(`spec/10_state.md` section 1, `spec/43_codec_common.md` section 2), the 42 instructions of `spec/opcode_table.json`,
and the transactions in which they reach the machine. -/

namespace Sys2Proof

/-- WireRecord (R20): the unit of the transport and of both FIFOs. Its invariant (R21) is `WireRecord.wf`. -/
structure WireRecord where
  addr : DevAddr
  msgType : TypeCode
  length : Nat
  payload : Payload
  deriving DecidableEq, Repr

/-- The answer of port RX to a read (R23). -/
inductive ReadResult where
  | chunk (bytes : List Byte)
  | zero
  | ioError
  deriving DecidableEq, Repr

/-- The answer of port TX to a write (R23). -/
inductive WriteResult where
  | writeOk
  | writeError
  deriving DecidableEq, Repr

/-- Trigger (R213), carried but not computed by the block. -/
inductive Trigger where
  | shortClick | longClick | activated | deactivated | longActivated | longDeactivated
  deriving DecidableEq, Repr

/-- OutputState (R213). -/
inductive OutputState where
  | off | on | toggle
  deriving DecidableEq, Repr

/-- IoKind (R213). -/
inductive IoKind where
  | input | output
  deriving DecidableEq, Repr

/-- IoState (R213). -/
inductive IoState where
  | off | on
  deriving DecidableEq, Repr

/-- Message (R214): the closed set of 13 typed variants; it holds no device address. -/
inductive Message where
  | error (code : BitVec 32)
  | info (code : BitVec 16) (arg : BitVec 32)
  | outputChanged (index : Byte) (state : OutputState)
  | setOutput (index : Byte) (state : OutputState)
  | inputChanged (index : Byte) (trigger : Trigger)
  | triggerInput (index : Byte) (trigger : Trigger)
  | callProcedure (procId : Byte)
  | requestStatus
  | ping (body : BitVec 16)
  | pong (body : BitVec 16)
  | statusIo (index : Byte) (ioKind : IoKind) (state : IoState)
  | status (uptime : BitVec 32) (errors : BitVec 16) (warnings : BitVec 16)
  | timeAnnouncement (year : BitVec 16) (month day hour minute second dayOfWeek : Byte)
  deriving DecidableEq, Repr

/-- DecodeError (R212): closed, non-fatal, without data. -/
inductive DecodeError where
  | unknownType | lengthMismatch | invalidEnumValue
  deriving DecidableEq, Repr

/-- The 14 message types that have a code and a name (R97). -/
inductive MsgType where
  | error | outputChanged | inputChanged | setOutput | triggerInput | callProcedure | shutterCommand
  | requestStatus | statusIo | status | timeAnnouncement | info | pong | ping
  deriving DecidableEq, Repr

/-- The instructions: one constructor per row of `spec/opcode_table.json` (R107).

A FRAME13 row carries the operands of its frame (R90): the address, the length and the payload slot.
A CAN11 row carries the address of its 11-bit combined address (R96).
An OP row carries the operands its rule gives it. -/
inductive Instr where
  -- FRAME13
  | error (addr : DevAddr) (len : Nat) (p : Payload)
  | outputChanged (addr : DevAddr) (len : Nat) (p : Payload)
  | inputChanged (addr : DevAddr) (len : Nat) (p : Payload)
  | setOutput (addr : DevAddr) (len : Nat) (p : Payload)
  | triggerInput (addr : DevAddr) (len : Nat) (p : Payload)
  | callProcedure (addr : DevAddr) (len : Nat) (p : Payload)
  | shutterCommand (addr : DevAddr) (len : Nat) (p : Payload)
  | requestStatus (addr : DevAddr) (len : Nat) (p : Payload)
  | statusIo (addr : DevAddr) (len : Nat) (p : Payload)
  | status (addr : DevAddr) (len : Nat) (p : Payload)
  | timeAnnouncement (addr : DevAddr) (len : Nat) (p : Payload)
  | info (addr : DevAddr) (len : Nat) (p : Payload)
  | pong (addr : DevAddr) (len : Nat) (p : Payload)
  | ping (addr : DevAddr) (len : Nat) (p : Payload)
  -- CAN11
  | errorCan (addr : DevAddr)
  | outputChangedCan (addr : DevAddr)
  | inputChangedCan (addr : DevAddr)
  | setOutputCan (addr : DevAddr)
  | triggerInputCan (addr : DevAddr)
  | callProcedureCan (addr : DevAddr)
  | shutterCommandCan (addr : DevAddr)
  | requestStatusCan (addr : DevAddr)
  | statusIoCan (addr : DevAddr)
  | statusCan (addr : DevAddr)
  | timeAnnouncementCan (addr : DevAddr)
  | infoCan (addr : DevAddr)
  | pongCan (addr : DevAddr)
  | pingCan (addr : DevAddr)
  -- OP
  | ingRead (r : ReadResult)
  | ingPush
  | egrRecv
  | egrWrite (w : WriteResult)
  | egrPush (rec : WireRecord)
  | ingPop
  | egrTxClose
  | ingRxClose
  | supHalt
  | decode (rec : WireRecord)
  | encode (m : Message) (addr : Byte)
  | toCan (addr : Byte) (msgType : Byte)
  | splitCan (combined : BitVec 16)
  | reset
  deriving DecidableEq, Repr

/-- Why the framer discards a chunk (R131). -/
inductive FrameError where
  | sync | family | short | badLen
  deriving DecidableEq, Repr

/-- Why bytes or an identifier are no row of the table: the framer's four reasons (R103), or a type code that no row
names (R102). -/
inductive Undecoded where
  | frame (e : FrameError)
  | unnamedType (code : TypeCode)
  deriving DecidableEq, Repr

/-- One transaction offered to the machine (R12, R70): which agent moves next, and with what.
`rx` is TRX's answer to a read, `can` a field-bus identifier that a caller gives the codec, `op` an operation with its
operands, which has no bit encoding (R107). -/
inductive Transaction where
  | rx (r : ReadResult)
  | can (w : BitVec 16)
  | op (i : Instr)
  deriving DecidableEq, Repr

end Sys2Proof
end

