-- ==== Sys2Proof/WellFormed.lean ====
section
/-! DEFINITION. Which operands are well-formed: the type invariants the ports have in `spec/10_state.md` rules R21 and
R23. An operand that fails one cannot be presented on its port (R184, R311); log entry 8 says what the model does then. -/

namespace Sys2Proof

/-- R21: the payload bytes at and beyond `length` are zero. -/
def zeroTail (length : Nat) (p : Payload) : Bool :=
  (p.toList.drop length).all (· == 0)

/-- The well-formed record (R21): `length ≤ 8` and the normal form of the payload. The widths of `addr` and `msg_type`
are in their types. -/
def WireRecord.wf (r : WireRecord) : Bool :=
  decide (r.length ≤ 8) && zeroTail r.length r.payload

/-- R23: a chunk holds at least one byte and at most `CHUNK_SIZE`. -/
def ReadResult.wf (c : Config) : ReadResult → Bool
  | .chunk bytes => decide (1 ≤ bytes.length) && decide (bytes.length ≤ c.chunkSize)
  | .zero => true
  | .ioError => true

/-- The operands of a FRAME13 row: a length of 0 to 8 and zeros beyond it (R90, R93). -/
def frameWf (len : Nat) (p : Payload) : Bool :=
  decide (len ≤ 8) && zeroTail len p

/-- A well-formed instruction under the parameters `c`. -/
def Instr.wf (c : Config) : Instr → Bool
  | .error _ n p => frameWf n p
  | .outputChanged _ n p => frameWf n p
  | .inputChanged _ n p => frameWf n p
  | .setOutput _ n p => frameWf n p
  | .triggerInput _ n p => frameWf n p
  | .callProcedure _ n p => frameWf n p
  | .shutterCommand _ n p => frameWf n p
  | .requestStatus _ n p => frameWf n p
  | .statusIo _ n p => frameWf n p
  | .status _ n p => frameWf n p
  | .timeAnnouncement _ n p => frameWf n p
  | .info _ n p => frameWf n p
  | .pong _ n p => frameWf n p
  | .ping _ n p => frameWf n p
  | .errorCan _ => true
  | .outputChangedCan _ => true
  | .inputChangedCan _ => true
  | .setOutputCan _ => true
  | .triggerInputCan _ => true
  | .callProcedureCan _ => true
  | .shutterCommandCan _ => true
  | .requestStatusCan _ => true
  | .statusIoCan _ => true
  | .statusCan _ => true
  | .timeAnnouncementCan _ => true
  | .infoCan _ => true
  | .pongCan _ => true
  | .pingCan _ => true
  | .ingRead r => r.wf c
  | .ingPush => true
  | .egrRecv => true
  | .egrWrite _ => true
  | .egrPush r => r.wf
  | .ingPop => true
  | .egrTxClose => true
  | .ingRxClose => true
  | .supHalt => true
  | .decode r => r.wf
  | .encode _ _ => true
  | .toCan _ _ => true
  | .splitCan _ => true
  | .reset => true

/-- A well-formed transaction: its operands can be presented on its port. -/
def Transaction.wf (c : Config) : Transaction → Bool
  | .rx r => r.wf c
  | .can _ => true
  | .op i => i.wf c

end Sys2Proof
end

