-- ==== Sys2Proof/Decode.lean ====
section
/-! DEFINITION. The wire encodings (`spec/30_encoding.md`): the type-code table, the framer's pure function and the
serializer's, the decoder from transactions to instructions, and after it the encoder. -/

namespace Sys2Proof

/-- `SYNC1` (R9, R90). -/
def sync1 : Byte := 0x21

/-- `SYNC2`, the only frame family (R9, R90, R95). -/
def sync2 : Byte := 0x7C

/-- The `msg_type` code of every named message type (R97). -/
def MsgType.code : MsgType → TypeCode
  | .error => 0x02
  | .outputChanged => 0x04
  | .inputChanged => 0x05
  | .setOutput => 0x08
  | .triggerInput => 0x09
  | .callProcedure => 0x0A
  | .shutterCommand => 0x0B
  | .requestStatus => 0x0D
  | .statusIo => 0x0E
  | .status => 0x10
  | .timeAnnouncement => 0x11
  | .info => 0x12
  | .pong => 0x1D
  | .ping => 0x1E

/-- The named message types in code order (R97). -/
def msgTypes : List MsgType :=
  [.error, .outputChanged, .inputChanged, .setOutput, .triggerInput, .callProcedure, .shutterCommand,
    .requestStatus, .statusIo, .status, .timeAnnouncement, .info, .pong, .ping]

/-- The named type of a code; none for the 18 unassigned codes (R102). -/
def msgTypeOfCode (c : TypeCode) : Option MsgType :=
  msgTypes.find? fun t => t.code == c

/-- Byte `i` of a chunk (R14). The framer reads only bytes that its length checks have shown to exist (R136). -/
def byteAt (c : List Byte) (i : Nat) : Byte := c.getD i 0

/-- The payload of a received frame: the first `n` bytes from offset 5, zeros beyond (R93, R131). -/
def payloadOfFrame (c : List Byte) (n : Nat) : Payload :=
  let at_ (i : Nat) : Byte := if i < n then byteAt c (5 + i) else 0
  ⟨at_ 0, at_ 1, at_ 2, at_ 3, at_ 4, at_ 5, at_ 6, at_ 7⟩

/-- The record of a frame that passed every check (R93, R131, R138). -/
def recordOfFrame (c : List Byte) : WireRecord where
  addr := (byteAt c 2 &&& 0x3F).setWidth 6
  msgType := (byteAt c 3 &&& 0x1F).setWidth 5
  length := (byteAt c 4).toNat
  payload := payloadOfFrame c (byteAt c 4).toNat

/-- `frame_chunk` (R131): the checks in exactly this order, and the first that fails decides. -/
def frameChunk (c : List Byte) : Except FrameError WireRecord :=
  if byteAt c 0 ≠ sync1 then .error .sync
  else if c.length < 2 then .error .short
  else if byteAt c 1 ≠ sync2 then .error .family
  else if c.length < 13 then .error .short
  else if 8 < (byteAt c 4).toNat then .error .badLen
  else .ok (recordOfFrame c)

/-- `serialize` (R94, R162): the 13 bytes of a record's frame. -/
def serialize (r : WireRecord) : List Byte :=
  [sync1, sync2, r.addr.setWidth 8, r.msgType.setWidth 8, BitVec.ofNat 8 r.length] ++ r.payload.toList

/-- The FRAME13 row of a named type, with its operands (R107). -/
def frameInstr (a : DevAddr) (n : Nat) (p : Payload) : MsgType → Instr
  | .error => .error a n p
  | .outputChanged => .outputChanged a n p
  | .inputChanged => .inputChanged a n p
  | .setOutput => .setOutput a n p
  | .triggerInput => .triggerInput a n p
  | .callProcedure => .callProcedure a n p
  | .shutterCommand => .shutterCommand a n p
  | .requestStatus => .requestStatus a n p
  | .statusIo => .statusIo a n p
  | .status => .status a n p
  | .timeAnnouncement => .timeAnnouncement a n p
  | .info => .info a n p
  | .pong => .pong a n p
  | .ping => .ping a n p

/-- The CAN11 row of a named type, with its operand (R107). -/
def canInstr (a : DevAddr) : MsgType → Instr
  | .error => .errorCan a
  | .outputChanged => .outputChangedCan a
  | .inputChanged => .inputChangedCan a
  | .setOutput => .setOutputCan a
  | .triggerInput => .triggerInputCan a
  | .callProcedure => .callProcedureCan a
  | .shutterCommand => .shutterCommandCan a
  | .requestStatus => .requestStatusCan a
  | .statusIo => .statusIoCan a
  | .status => .statusCan a
  | .timeAnnouncement => .timeAnnouncementCan a
  | .info => .infoCan a
  | .pong => .pongCan a
  | .ping => .pingCan a

/-- The row of a received record (R107: the mask holds the two sync bytes and the five msg_type bits). -/
def decodeRecordRow (r : WireRecord) : Except Undecoded Instr :=
  match msgTypeOfCode r.msgType with
  | some t => .ok (frameInstr r.addr r.length r.payload t)
  | none => .error (.unnamedType r.msgType)

/-- The row of the bytes of one read: a frame at byte 0 (R64, R131) of a named type. -/
def decodeChunk (c : List Byte) : Except Undecoded Instr :=
  match frameChunk c with
  | .ok r => decodeRecordRow r
  | .error e => .error (.frame e)

/-- The two fields of a combined address: bits 5:0 and 10:6; bits 11 and above are ignored (R96, R241). -/
def canFields (w : BitVec 16) : DevAddr × TypeCode :=
  ((w &&& 0x3F).setWidth 6, ((w >>> 6) &&& 0x1F).setWidth 5)

/-- The row of a combined address (R96, R107: the mask is bits 10:6). -/
def decodeCan (w : BitVec 16) : Except Undecoded Instr :=
  match msgTypeOfCode (canFields w).2 with
  | some t => .ok (canInstr (canFields w).1 t)
  | none => .error (.unnamedType (canFields w).2)

/-- The decoder: the instruction a transaction stands for, or the name of the reason why it is no row of the table. -/
def decode : Transaction → Except Undecoded Instr
  | .rx (.chunk c) => decodeChunk c
  | .rx r => .ok (.ingRead r)
  | .can w => decodeCan w
  | .op i => .ok i

/-- A frame as it is sent: the 13 bytes of R90, written from the fields (R94). -/
def encodeFrame (t : MsgType) (a : DevAddr) (n : Nat) (p : Payload) : Transaction :=
  .rx (.chunk ([0x21, 0x7C, a.setWidth 8, t.code.setWidth 8, BitVec.ofNat 8 n,
    p.b0, p.b1, p.b2, p.b3, p.b4, p.b5, p.b6, p.b7]))

/-- A combined address: `msg_type` in bits 10:6, `addr` in bits 5:0 (R96). -/
def encodeCan (t : MsgType) (a : DevAddr) : Transaction :=
  .can ((t.code.setWidth 16 <<< 6) ||| a.setWidth 16)

/-- The encoder: a FRAME13 row is a chunk of 13 bytes on RX, a CAN11 row a combined address, and an OP row, which has no
bit encoding (R107), goes as the operation itself. -/
def encode : Instr → Transaction
  | .error a n p => encodeFrame .error a n p
  | .outputChanged a n p => encodeFrame .outputChanged a n p
  | .inputChanged a n p => encodeFrame .inputChanged a n p
  | .setOutput a n p => encodeFrame .setOutput a n p
  | .triggerInput a n p => encodeFrame .triggerInput a n p
  | .callProcedure a n p => encodeFrame .callProcedure a n p
  | .shutterCommand a n p => encodeFrame .shutterCommand a n p
  | .requestStatus a n p => encodeFrame .requestStatus a n p
  | .statusIo a n p => encodeFrame .statusIo a n p
  | .status a n p => encodeFrame .status a n p
  | .timeAnnouncement a n p => encodeFrame .timeAnnouncement a n p
  | .info a n p => encodeFrame .info a n p
  | .pong a n p => encodeFrame .pong a n p
  | .ping a n p => encodeFrame .ping a n p
  | .errorCan a => encodeCan .error a
  | .outputChangedCan a => encodeCan .outputChanged a
  | .inputChangedCan a => encodeCan .inputChanged a
  | .setOutputCan a => encodeCan .setOutput a
  | .triggerInputCan a => encodeCan .triggerInput a
  | .callProcedureCan a => encodeCan .callProcedure a
  | .shutterCommandCan a => encodeCan .shutterCommand a
  | .requestStatusCan a => encodeCan .requestStatus a
  | .statusIoCan a => encodeCan .statusIo a
  | .statusCan a => encodeCan .status a
  | .timeAnnouncementCan a => encodeCan .timeAnnouncement a
  | .infoCan a => encodeCan .info a
  | .pongCan a => encodeCan .pong a
  | .pingCan a => encodeCan .ping a
  | .ingRead r => .op (.ingRead r)
  | .ingPush => .op (.ingPush)
  | .egrRecv => .op (.egrRecv)
  | .egrWrite w => .op (.egrWrite w)
  | .egrPush r => .op (.egrPush r)
  | .ingPop => .op (.ingPop)
  | .egrTxClose => .op (.egrTxClose)
  | .ingRxClose => .op (.ingRxClose)
  | .supHalt => .op (.supHalt)
  | .decode r => .op (.decode r)
  | .encode m a => .op (.encode m a)
  | .toCan a t => .op (.toCan a t)
  | .splitCan w => .op (.splitCan w)
  | .reset => .op (.reset)

/-- The bytes of a frame given as the integer `F` of R92: byte `k` is bits `8k+7 : 8k`. -/
def frameBytes (w : Nat) : List Byte :=
  (List.range 13).map fun k => BitVec.ofNat 8 (w >>> (8 * k))

/-- The transaction of a word of the opcode table, every bit above the table's zero: 11 bits (two bytes) are a combined
address, more are a frame of 13 bytes on RX (log entry 1). -/
def tableTransaction (nbits w : Nat) : Transaction :=
  if nbits ≤ 16 then .can (BitVec.ofNat 16 w) else .rx (.chunk (frameBytes w))

/-- The instruction the decoder reads from a word of the opcode table; the 14 OP rows have no word (R107). -/
def decodeTableWord (nbits w : Nat) : Option Instr :=
  if nbits = 0 then none
  else
    match decode (tableTransaction nbits w) with
    | .ok i => some i
    | .error _ => none

end Sys2Proof
end

