-- ==== Sys2Proof/Machine/State.lean ====
section
/-! DEFINITION. The machine's state: everything `spec/10_state.md` gives the block, the parameters it is run with, and
the model's own fields for the ports and the environment. Also the event taxonomy (`spec/60_exceptions.md`), the reasons
a step can stop, and the state after reset. -/

namespace Sys2Proof.Machine

open Sys2Proof

/-- Why a flow ended with an error (R24). -/
inductive FlowErr where
  | peerDisconnected | ingressReceiverClosed | writeFailed
  deriving DecidableEq, Repr

/-- The result of a flow, and of the block (R24, R352). -/
inductive FlowResult where
  | ok
  | err (e : FlowErr)
  deriving DecidableEq, Repr

/-- The 13 events of R330, in the order of their ordinals. Events 6 to 9 are raised outside the block (R340). -/
inductive Event where
  | sync | family | short | badLen | readIo
  | decUnknownType | decLength | decEnum | unsupportedMapping
  | zeroRead | ingClosed | writeIo | halt
  deriving DecidableEq, Repr

/-- What a log entry records beside its event (R330, column "info"). -/
inductive Info where
  | none
  | chunkLength (n : Nat)
  | result (r : FlowResult)
  deriving DecidableEq, Repr

/-- One log entry (R25). -/
structure LogEvent where
  event : Event
  info : Info
  deriving DecidableEq, Repr

/-- `ING.phase` with the ingress record latch (R27, R29). -/
inductive IngPhase where
  | read
  | push (rec : WireRecord)
  | done (e : FlowErr)
  deriving DecidableEq, Repr

/-- `EGR.phase` with the egress record latch (R28, R29). -/
inductive EgrPhase where
  | recv
  | write (rec : WireRecord)
  | done (r : FlowResult)
  deriving DecidableEq, Repr

/-- One bounded FIFO (R30): the records, oldest first, and whether each end still exists. -/
structure Fifo where
  buf : List WireRecord
  txOpen : Bool
  rxOpen : Bool
  deriving DecidableEq, Repr

/-- One transaction of port TX (R163, R68): the bytes presented and TTX's answer. -/
structure TxFrame where
  bytes : List Byte
  answer : WriteResult
  deriving DecidableEq, Repr

/-- What the latest transaction answered on its port (R12). The model's own (log entry 5).
`none`: the operation gives no answer. `suspended`: its guard failed and it waits (R16). `pushed`, `closed`: EGR_PUSH's
`Ok` and `Err(Closed)` (R184). `popped`, `drained`: ING_POP's `Some(rec)` and `None` (R186). `decoded`, `encoded`,
`combined`, `split`: the codec calls (R217, R225, R240, R241). `done`: what SUP.HALT presents on port DONE (R352). -/
inductive Answer where
  | none
  | suspended
  | pushed
  | closed
  | popped (rec : WireRecord)
  | drained
  | decoded (d : Except DecodeError Message)
  | encoded (rec : WireRecord)
  | combined (c : BitVec 16)
  | split (addr : DevAddr) (msgType : TypeCode)
  | done (r : FlowResult)
  deriving DecidableEq, Repr

/-- The state of the machine. `ing` to `log` are the tuple of R26; `cfg` holds the parameters of R8, which no step
writes; `tx`, `answer` and `schedule` are the model's own (log entries 1, 5 and 6). -/
structure State where
  /-- The parameters of R8 (log entry 3). -/
  cfg : Config
  /-- `ING.phase` (R27). -/
  ing : IngPhase
  /-- `EGR.phase` (R28). -/
  egr : EgrPhase
  /-- `INGQ` (R30). -/
  ingq : Fifo
  /-- `EGRQ` (R30). -/
  egrq : Fifo
  /-- `SUP.halted` (R32). -/
  halted : Bool
  /-- `SUP.first_err` (R32, R351). -/
  firstErr : Option FlowErr
  /-- `SUP.result` (R32, R352), presented on port DONE. -/
  result : Option FlowResult
  /-- `LOG` (R33). -/
  log : List LogEvent
  /-- The transactions of port TX so far, oldest first (the model's own). -/
  tx : List TxFrame
  /-- The latest answer on a port (the model's own). -/
  answer : Answer
  /-- The transactions still to be tried, next one first (the model's own). -/
  schedule : List Transaction
  deriving DecidableEq, Repr

/-- The reasons a step faults: an operand that the type of its port excludes (R21, R23, R184, R311), so that the spec
gives it no effect. All are safe: the machine stops where the hardware cannot be (log entry 8). -/
inductive Fault where
  /-- Raised by EGR_PUSH, DECODE and the FRAME13 rows on a record that breaks the invariant of R21. Safe. -/
  | illFormedRecord
  /-- Raised by ING.READ on a chunk without bytes, which R23 excludes. Safe. -/
  | emptyChunk
  /-- Raised by ING.READ on a chunk of more than CHUNK_SIZE bytes, which R311 assumes TRX never answers. Safe. -/
  | chunkTooLong
  deriving DecidableEq, Repr

/-- The reasons a step is refused. -/
inductive Refusal where
  /-- Raised by an arm of `exec` for an instruction that has no meaning yet; no arm raises it now. Safe. -/
  | notModelled (mnemonic : String)
  deriving DecidableEq, Repr

/-- A FIFO right after reset (R30, R38). -/
def Fifo.fresh : Fifo := ⟨[], true, true⟩

/-- The state right after reset under the parameters `c` (R38); nothing has passed the ports and nothing is scheduled. -/
def State.resetWith (c : Config) : State where
  cfg := c
  ing := .read
  egr := .recv
  ingq := Fifo.fresh
  egrq := Fifo.fresh
  halted := false
  firstErr := none
  result := none
  log := []
  tx := []
  answer := .none
  schedule := []

/-- The machine right after reset (R38), with the reference parameters of R8 (log entry 3). -/
def State.reset : State := State.resetWith Config.reference

end Sys2Proof.Machine
end

