-- ==== Sys2Proof/Machine/Operands.lean ====
section
/-! DEFINITION. The operand forms of the codec: little-endian fields of a payload (`spec/00_scope.md` R14,
`spec/43_codec_common.md` R231) and the one-byte enum fields (`spec/30_encoding.md` R99). -/

namespace Sys2Proof.Machine

open Sys2Proof

/-- `le16(b, k)` (R14). -/
def le16 (p : Payload) (k : Nat) : BitVec 16 :=
  (p.get k).setWidth 16 ||| ((p.get (k + 1)).setWidth 16 <<< 8)

/-- `le32(b, k)` (R14). -/
def le32 (p : Payload) (k : Nat) : BitVec 32 :=
  (p.get k).setWidth 32 ||| ((p.get (k + 1)).setWidth 32 <<< 8) |||
    ((p.get (k + 2)).setWidth 32 <<< 16) ||| ((p.get (k + 3)).setWidth 32 <<< 24)

/-- `bytes_le16(v)` (R14). -/
def bytesLe16 (v : BitVec 16) : List Byte :=
  [v.extractLsb' 0 8, v.extractLsb' 8 8]

/-- `bytes_le32(v)` (R14). -/
def bytesLe32 (v : BitVec 32) : List Byte :=
  [v.extractLsb' 0 8, v.extractLsb' 8 8, v.extractLsb' 16 8, v.extractLsb' 24 8]

/-- The payload `bytes ++ zeros(8 - len(bytes))` (R225), for at most 8 bytes. -/
def payloadOfBytes (l : List Byte) : Payload :=
  ⟨l.getD 0 0, l.getD 1 0, l.getD 2 0, l.getD 3 0, l.getD 4 0, l.getD 5 0, l.getD 6 0, l.getD 7 0⟩

/-- `TRIGGER_CODE` (R8, R99). -/
def triggerCode (c : Config) : Trigger → Byte
  | .shortClick => c.trigger.shortClick
  | .longClick => c.trigger.longClick
  | .activated => c.trigger.activated
  | .deactivated => c.trigger.deactivated
  | .longActivated => c.trigger.longActivated
  | .longDeactivated => c.trigger.longDeactivated

/-- `OUTSTATE_CODE`, with `On = 1` fixed (R8, R99). -/
def outStateCode (c : Config) : OutputState → Byte
  | .off => c.outState.off
  | .on => 1
  | .toggle => c.outState.toggle

/-- The codes of IoKind: input 0, output 1 (R9, R99). -/
def ioKindCode : IoKind → Byte
  | .input => 0
  | .output => 1

/-- `IOSTATE_CODE` (R8, R99). -/
def ioStateCode (c : Config) : IoState → Byte
  | .off => c.ioState.off
  | .on => c.ioState.on

/-- `dec_Trigger` (R99): the member whose code is the byte, none where it is no member's. -/
def decTrigger (c : Config) (b : Byte) : Option Trigger :=
  [.shortClick, .longClick, .activated, .deactivated, .longActivated, .longDeactivated].find?
    fun m => triggerCode c m == b

/-- `dec_OutputState` (R99). -/
def decOutState (c : Config) (b : Byte) : Option OutputState :=
  [.off, .on, .toggle].find? fun m => outStateCode c m == b

/-- `dec_IoKind` (R99). -/
def decIoKind (b : Byte) : Option IoKind :=
  [.input, .output].find? fun m => ioKindCode m == b

/-- `dec_IoState` (R99). -/
def decIoState (c : Config) (b : Byte) : Option IoState :=
  [.off, .on].find? fun m => ioStateCode c m == b

end Sys2Proof.Machine
end

