-- ==== Sys2Proof/Machine/Messages.lean ====
section
/-! DEFINITION. The codec's per-type parts: for each named message type its `decode` of a record and the payload bytes
its `encode` writes (`spec/44_codec_messages.md`, one rule per type). All are pure (R211). -/

namespace Sys2Proof.Machine

open Sys2Proof

/-- The result type of `decode` (R217). -/
abbrev Decoded := Except DecodeError Message

/-- The length check of every type (R219, R250): equality, before any payload byte is read. -/
def withLength (r : WireRecord) (n : Nat) (d : Decoded) : Decoded :=
  if r.length = n then d else .error .lengthMismatch

/-- An enum field (R99, R220). -/
def enumField {α : Type} (o : Option α) (k : α → Decoded) : Decoded :=
  match o with
  | some m => k m
  | none => .error .invalidEnumValue

/-- `ERROR` (R251). -/
def decodeError (r : WireRecord) : Decoded :=
  withLength r 4 (.ok (.error (le32 r.payload 0)))

/-- `OUTPUT_CHANGED` (R252). -/
def decodeOutputChanged (c : Config) (r : WireRecord) : Decoded :=
  withLength r 2 (enumField (decOutState c (r.payload.get 1)) fun v => .ok (.outputChanged (r.payload.get 0) v))

/-- `INPUT_CHANGED` (R253). -/
def decodeInputChanged (c : Config) (r : WireRecord) : Decoded :=
  withLength r 2 (enumField (decTrigger c (r.payload.get 1)) fun v => .ok (.inputChanged (r.payload.get 0) v))

/-- `SET_OUTPUT` (R254). -/
def decodeSetOutput (c : Config) (r : WireRecord) : Decoded :=
  withLength r 2 (enumField (decOutState c (r.payload.get 1)) fun v => .ok (.setOutput (r.payload.get 0) v))

/-- `TRIGGER_INPUT` (R255). -/
def decodeTriggerInput (c : Config) (r : WireRecord) : Decoded :=
  withLength r 2 (enumField (decTrigger c (r.payload.get 1)) fun v => .ok (.triggerInput (r.payload.get 0) v))

/-- `CALL_PROCEDURE` (R256). -/
def decodeCallProcedure (r : WireRecord) : Decoded :=
  withLength r 1 (.ok (.callProcedure (r.payload.get 0)))

/-- `SHUTTER_COMMAND` (R257, R101): no layout, so `UnknownType` for every length and payload. -/
def decodeShutterCommand (_ : WireRecord) : Decoded :=
  .error .unknownType

/-- `REQUEST_STATUS` (R258). -/
def decodeRequestStatus (r : WireRecord) : Decoded :=
  withLength r 0 (.ok .requestStatus)

/-- `STATUS_IO` (R259). -/
def decodeStatusIo (c : Config) (r : WireRecord) : Decoded :=
  withLength r 3 (enumField (decIoKind (r.payload.get 1)) fun k =>
    enumField (decIoState c (r.payload.get 2)) fun v => .ok (.statusIo (r.payload.get 0) k v))

/-- `STATUS` (R260). -/
def decodeStatus (r : WireRecord) : Decoded :=
  withLength r 8 (.ok (.status (le32 r.payload 0) (le16 r.payload 4) (le16 r.payload 6)))

/-- `TIME_ANNOUNCEMENT` (R261); no field is range-checked (R222). -/
def decodeTimeAnnouncement (r : WireRecord) : Decoded :=
  withLength r 8 (.ok (.timeAnnouncement (le16 r.payload 0) (r.payload.get 2) (r.payload.get 3) (r.payload.get 4)
    (r.payload.get 5) (r.payload.get 6) (r.payload.get 7)))

/-- `INFO` (R262). -/
def decodeInfo (r : WireRecord) : Decoded :=
  withLength r 6 (.ok (.info (le16 r.payload 0) (le32 r.payload 2)))

/-- `PONG` (R263). -/
def decodePong (r : WireRecord) : Decoded :=
  withLength r 2 (.ok (.pong (le16 r.payload 0)))

/-- `PING` (R264). -/
def decodePing (r : WireRecord) : Decoded :=
  withLength r 2 (.ok (.ping (le16 r.payload 0)))

/-- The payload bytes `encode` writes, in payload order (R225, R251 to R264). -/
def messageBytes (c : Config) : Message → List Byte
  | .error code => bytesLe32 code
  | .info code arg => bytesLe16 code ++ bytesLe32 arg
  | .outputChanged index state => [index, outStateCode c state]
  | .setOutput index state => [index, outStateCode c state]
  | .inputChanged index trigger => [index, triggerCode c trigger]
  | .triggerInput index trigger => [index, triggerCode c trigger]
  | .callProcedure procId => [procId]
  | .requestStatus => []
  | .ping body => bytesLe16 body
  | .pong body => bytesLe16 body
  | .statusIo index kind state => [index, ioKindCode kind, ioStateCode c state]
  | .status uptime errors warnings => bytesLe32 uptime ++ bytesLe16 errors ++ bytesLe16 warnings
  | .timeAnnouncement year month day hour minute second dayOfWeek =>
    bytesLe16 year ++ [month, day, hour, minute, second, dayOfWeek]

/-- The type of a message's variant (R214, R215). -/
def messageType : Message → MsgType
  | .error _ => .error
  | .info _ _ => .info
  | .outputChanged _ _ => .outputChanged
  | .setOutput _ _ => .setOutput
  | .inputChanged _ _ => .inputChanged
  | .triggerInput _ _ => .triggerInput
  | .callProcedure _ => .callProcedure
  | .requestStatus => .requestStatus
  | .ping _ => .ping
  | .pong _ => .pong
  | .statusIo _ _ _ => .statusIo
  | .status _ _ _ => .status
  | .timeAnnouncement _ _ _ _ _ _ _ => .timeAnnouncement

/-- `req_len` (R97, R215): the payload length of a type, a constant; none for SHUTTER_COMMAND, which has no layout. -/
def reqLen : MsgType → Option Nat
  | .error => some 4
  | .outputChanged => some 2
  | .inputChanged => some 2
  | .setOutput => some 2
  | .triggerInput => some 2
  | .callProcedure => some 1
  | .shutterCommand => none
  | .requestStatus => some 0
  | .statusIo => some 3
  | .status => some 8
  | .timeAnnouncement => some 8
  | .info => some 6
  | .pong => some 2
  | .ping => some 2

end Sys2Proof.Machine
end

