-- ==== Sys2Proof/Machine/Flags.lean ====
section
/-! DEFINITION. The status flags of the block: no arithmetic flags, but what an observer can ask of the state
(`spec/10_state.md` R34), and the columns of the event table (`spec/60_exceptions.md` R330). -/

namespace Sys2Proof.Machine

open Sys2Proof

/-- "INGQ full" (R34), derived. -/
def ingqFull (s : State) : Bool := s.ingq.buf.length == s.cfg.ingCap

/-- "EGRQ full" (R34), derived. -/
def egrqFull (s : State) : Bool := s.egrq.buf.length == s.cfg.egrCap

/-- "INGQ empty" (R34), derived. -/
def ingqEmpty (s : State) : Bool := s.ingq.buf.isEmpty

/-- "EGRQ empty" (R34), derived. -/
def egrqEmpty (s : State) : Bool := s.egrq.buf.isEmpty

/-- INGQ has a free slot: the guard of `ING.PUSH` (R142). -/
def ingqHasRoom (s : State) : Bool := decide (s.ingq.buf.length < s.cfg.ingCap)

/-- EGRQ has a free slot: the guard of `EGR_PUSH` (R184). -/
def egrqHasRoom (s : State) : Bool := decide (s.egrq.buf.length < s.cfg.egrCap)

/-- `ING.phase = DONE(..)`. -/
def ingDone (s : State) : Bool :=
  match s.ing with
  | .done _ => true
  | .read => false
  | .push _ => false

/-- `EGR.phase = DONE(..)`. -/
def egrDone (s : State) : Bool :=
  match s.egr with
  | .done _ => true
  | .recv => false
  | .write _ => false

/-- What port DONE shows: the block's result, valid once halted (R12, R32). -/
def donePort (s : State) : Option FlowResult :=
  if s.halted then s.result else none

/-- The ordinal of an event (R330); it has no meaning on any interface. -/
def eventOrd : Event → Nat
  | .sync => 1
  | .family => 2
  | .short => 3
  | .badLen => 4
  | .readIo => 5
  | .decUnknownType => 6
  | .decLength => 7
  | .decEnum => 8
  | .unsupportedMapping => 9
  | .zeroRead => 10
  | .ingClosed => 11
  | .writeIo => 12
  | .halt => 13

/-- The classes of R330: non-fatal, fatal to one flow, or the halt of the block. -/
inductive EventClass where
  | nonFatal | fatal | blockHalts
  deriving DecidableEq, Repr

/-- The class of an event (R330, R332). -/
def eventClass : Event → EventClass
  | .sync => .nonFatal
  | .family => .nonFatal
  | .short => .nonFatal
  | .badLen => .nonFatal
  | .readIo => .nonFatal
  | .decUnknownType => .nonFatal
  | .decLength => .nonFatal
  | .decEnum => .nonFatal
  | .unsupportedMapping => .nonFatal
  | .zeroRead => .fatal
  | .ingClosed => .fatal
  | .writeIo => .fatal
  | .halt => .blockHalts

/-- The event of a framing error (R131, R330). -/
def frameEvent : FrameError → Event
  | .sync => .sync
  | .family => .family
  | .short => .short
  | .badLen => .badLen

/-- The event of a flow error (R330, R331). -/
def flowEvent : FlowErr → Event
  | .peerDisconnected => .zeroRead
  | .ingressReceiverClosed => .ingClosed
  | .writeFailed => .writeIo

/-- The event with which the CALLER of `decode` logs a decode error (R340). The block's own steps never use it. -/
def decodeEvent : DecodeError → Event
  | .unknownType => .decUnknownType
  | .lengthMismatch => .decLength
  | .invalidEnumValue => .decEnum

end Sys2Proof.Machine
end

