-- ==== Sys2Proof/Machine/Ops.lean ====
section
/-! DEFINITION. The shared operations of the machine: answering, suspending, raising events and ending a flow (what takes
the place of an exception, `spec/60_exceptions.md` R331), the four FIFO operations (`spec/42_fifo.md` R183), the reset of
the block (`spec/70_reset_and_hazards.md` R380), and the reception of a frame. -/

namespace Sys2Proof.Machine

open Sys2Proof

/-- One step's outcome. -/
abbrev Result := Host.Outcome State Fault Refusal

/-- `s` with `a` as the answer on the port. -/
def answering (a : Answer) (s : State) : State := { s with answer := a }

/-- The guard of the step fails: the agent is suspended, not faulted, and nothing of the block changes (R16). -/
def suspend (s : State) : Result := .next (answering .suspended s)

/-- `raise E(info)` (R331): one log entry and nothing else. -/
def raise (e : Event) (i : Info) (s : State) : State :=
  { s with log := s.log ++ [⟨e, i⟩] }

/-- The flow of `f` ends with error `f` (R331, R341): its class-F event is raised, its phase becomes `DONE(Err(f))`, and
`first_err` is set if it was `None`. There is no handler and nothing is saved. -/
def endFlow (f : FlowErr) (s : State) : State :=
  let s := raise (flowEvent f) .none s
  let s := { s with firstErr := s.firstErr.or (some f) }
  match f with
  | .peerDisconnected => { s with ing := .done .peerDisconnected }
  | .ingressReceiverClosed => { s with ing := .done .ingressReceiverClosed }
  | .writeFailed => { s with egr := .done (.err .writeFailed) }

/-- There is no return from an event (R355): `RESET` alone leads out of an ended or halted state. It puts every element
of R26 to its reset value (R380) and leaves the parameters, the transport's side of TX and the environment's schedule
(R380, R382; log entry 9). -/
def resetBlock (s : State) : State :=
  { State.resetWith s.cfg with tx := s.tx, schedule := s.schedule }

/-- Push at the young end (R181). -/
def Fifo.push (r : WireRecord) (q : Fifo) : Fifo := { q with buf := q.buf ++ [r] }

/-- What is left when the oldest record is popped (R181). -/
def Fifo.pop (q : Fifo) : Fifo := { q with buf := q.buf.tail }

/-- The last sending end is dropped: the buffered records stay (R189, R191). -/
def Fifo.dropSender (q : Fifo) : Fifo := { q with txOpen := false }

/-- The receiving end is dropped: the buffered records are destroyed (R190, R191). -/
def Fifo.dropReceiver (q : Fifo) : Fifo := { q with rxOpen := false, buf := [] }

/-- A record framed from a chunk goes into the ingress latch (R138); `a` is the answer. -/
def latch (rec : WireRecord) (a : Answer) (s : State) : State :=
  { s with ing := .push rec, answer := a }

/-- Reception of the frame of one FRAME13 row: `ING.READ` of a chunk that holds it (R132, R138), with the row's own
`decode` of the record as the codec's answer (R211; log entry 4). Guard as for `ING.READ`; a frame whose fields are no
well-formed record does not exist on the wire. -/
def receiveFrame (rec : WireRecord) (d : Except DecodeError Message) (s : State) : Result :=
  match s.halted, s.ing with
  | false, .read =>
    if rec.wf then .next (latch rec (.decoded d) s) else .fault .illFormedRecord
  | _, _ => suspend s

end Sys2Proof.Machine
end

