-- ==== Sys2Proof/Machine/Codec.lean ====
section
/-! DEFINITION. The codec (`spec/43_codec_common.md`): `decode`, `encode`, `to_can_addr`, `split_can_addr` as pure
functions, and the operations DECODE, ENCODE, TO_CAN and SPLIT_CAN, which answer on a port and change nothing of the
block (R211). -/

namespace Sys2Proof.Machine

open Sys2Proof

/-- `decode` (R217): the type is looked up first (R218), then each type's own rule. -/
def decodeRecord (c : Config) (r : WireRecord) : Decoded :=
  match msgTypeOfCode r.msgType with
  | none => .error .unknownType
  | some .error => decodeError r
  | some .outputChanged => decodeOutputChanged c r
  | some .inputChanged => decodeInputChanged c r
  | some .setOutput => decodeSetOutput c r
  | some .triggerInput => decodeTriggerInput c r
  | some .callProcedure => decodeCallProcedure r
  | some .shutterCommand => decodeShutterCommand r
  | some .requestStatus => decodeRequestStatus r
  | some .statusIo => decodeStatusIo c r
  | some .status => decodeStatus r
  | some .timeAnnouncement => decodeTimeAnnouncement r
  | some .info => decodeInfo r
  | some .pong => decodePong r
  | some .ping => decodePing r

/-- `encode` (R225); the address is masked to 6 bits (R226). -/
def encodeMessage (c : Config) (m : Message) (a : Byte) : WireRecord where
  addr := (a &&& 0x3F).setWidth 6
  msgType := (messageType m).code
  length := (reqLen (messageType m)).getD 0
  payload := payloadOfBytes (messageBytes c m)

/-- `to_can_addr` (R240), on `u8` arguments with a `u16` carrier (R243). -/
def toCanAddr (a t : Byte) : BitVec 16 :=
  ((t &&& 0x1F).setWidth 16 <<< 6) ||| (a &&& 0x3F).setWidth 16

/-- `split_can_addr` (R241). -/
def splitCanAddr (c : BitVec 16) : DevAddr × TypeCode := canFields c

/-- DECODE (R217). -/
def execDecode (r : WireRecord) (s : State) : Result :=
  if r.wf then .next (answering (.decoded (decodeRecord s.cfg r)) s) else .fault .illFormedRecord

/-- ENCODE (R225). -/
def execEncode (m : Message) (a : Byte) (s : State) : Result :=
  .next (answering (.encoded (encodeMessage s.cfg m a)) s)

/-- TO_CAN (R240). -/
def execToCan (a t : Byte) (s : State) : Result :=
  .next (answering (.combined (toCanAddr a t)) s)

/-- SPLIT_CAN (R241). -/
def execSplitCan (w : BitVec 16) (s : State) : Result :=
  .next (answering (.split (splitCanAddr w).1 (splitCanAddr w).2) s)

end Sys2Proof.Machine
end

