-- ==== Sys2Proof/Machine/Can.lean ====
section
/-! DEFINITION. The meanings of the 14 CAN11 rows: SPLIT_CAN of the 11-bit combined address of that type
(`spec/30_encoding.md` R96, `spec/43_codec_common.md` R240, R241). Log entry 7. -/

namespace Sys2Proof.Machine

open Sys2Proof

/-- A field-bus identifier of type `t` is given to the codec, which answers its two fields; nothing of the block changes
(R211). -/
def receiveCan (t : MsgType) (a : DevAddr) (s : State) : Result :=
  let f := splitCanAddr (toCanAddr (a.setWidth 8) (t.code.setWidth 8))
  .next (answering (.split f.1 f.2) s)

/-- ERROR.CAN (R251, R96). -/
def execErrorCan (a : DevAddr) (s : State) : Result :=
  receiveCan .error a s

/-- OUTPUT_CHANGED.CAN (R252, R96). -/
def execOutputChangedCan (a : DevAddr) (s : State) : Result :=
  receiveCan .outputChanged a s

/-- INPUT_CHANGED.CAN (R253, R96). -/
def execInputChangedCan (a : DevAddr) (s : State) : Result :=
  receiveCan .inputChanged a s

/-- SET_OUTPUT.CAN (R254, R96). -/
def execSetOutputCan (a : DevAddr) (s : State) : Result :=
  receiveCan .setOutput a s

/-- TRIGGER_INPUT.CAN (R255, R96). -/
def execTriggerInputCan (a : DevAddr) (s : State) : Result :=
  receiveCan .triggerInput a s

/-- CALL_PROCEDURE.CAN (R256, R96). -/
def execCallProcedureCan (a : DevAddr) (s : State) : Result :=
  receiveCan .callProcedure a s

/-- SHUTTER_COMMAND.CAN (R257, R96). -/
def execShutterCommandCan (a : DevAddr) (s : State) : Result :=
  receiveCan .shutterCommand a s

/-- REQUEST_STATUS.CAN (R258, R96). -/
def execRequestStatusCan (a : DevAddr) (s : State) : Result :=
  receiveCan .requestStatus a s

/-- STATUS_IO.CAN (R259, R96). -/
def execStatusIoCan (a : DevAddr) (s : State) : Result :=
  receiveCan .statusIo a s

/-- STATUS.CAN (R260, R96). -/
def execStatusCan (a : DevAddr) (s : State) : Result :=
  receiveCan .status a s

/-- TIME_ANNOUNCEMENT.CAN (R261, R96). -/
def execTimeAnnouncementCan (a : DevAddr) (s : State) : Result :=
  receiveCan .timeAnnouncement a s

/-- INFO.CAN (R262, R96). -/
def execInfoCan (a : DevAddr) (s : State) : Result :=
  receiveCan .info a s

/-- PONG.CAN (R263, R96). -/
def execPongCan (a : DevAddr) (s : State) : Result :=
  receiveCan .pong a s

/-- PING.CAN (R264, R96). -/
def execPingCan (a : DevAddr) (s : State) : Result :=
  receiveCan .ping a s

end Sys2Proof.Machine
end

