-- ==== Sys2Proof/Machine/Egress.lean ====
section
/-! DEFINITION. The operations of agent EGR (`spec/41_serializer_egress.md`): EGR.RECV and EGR.WRITE. -/

namespace Sys2Proof.Machine

open Sys2Proof

/-- EGR.RECV (R161, R165 to R167): buffered records are drained before the clean end. -/
def execEgrRecv (s : State) : Result :=
  match s.halted, s.egr with
  | false, .recv =>
    match s.egrq.buf with
    | rec :: _ => .next { s with egrq := s.egrq.pop, egr := .write rec, answer := .none }
    | [] =>
      if s.egrq.txOpen = false then .next { s with egr := .done .ok, answer := .none }
      else suspend s
  | _, _ => suspend s

/-- The 13 bytes of `rec` are presented on TX in one transaction (R163, R68). -/
def present (rec : WireRecord) (w : WriteResult) (s : State) : State :=
  { s with tx := s.tx ++ [⟨serialize rec, w⟩] }

/-- EGR.WRITE (R163, R164). -/
def execEgrWrite (w : WriteResult) (s : State) : Result :=
  match s.halted, s.egr with
  | false, .write rec =>
    match w with
    | .writeOk => .next { present rec w s with egr := .recv, answer := .none }
    | .writeError => .next (answering .none (endFlow .writeFailed (present rec w s)))
  | _, _ => suspend s

end Sys2Proof.Machine
end

