-- ==== Sys2Proof/Machine/Fifos.lean ====
section
/-! DEFINITION. The application's operations on the two FIFOs (`spec/42_fifo.md`): EGR_PUSH, ING_POP, EGR_TXCLOSE and
ING_RXCLOSE. -/

namespace Sys2Proof.Machine

open Sys2Proof

/-- EGR_PUSH (R184, R185, R188): the closed receiver is detected before fullness (R337). A record that breaks R21 cannot
be presented. -/
def execEgrPush (rec : WireRecord) (s : State) : Result :=
  if s.egrq.txOpen = true ∧ (s.egrq.rxOpen = false ∨ egrqHasRoom s = true) then
    if rec.wf then
      if s.egrq.rxOpen = false then .next (answering .closed s)
      else .next { s with egrq := s.egrq.push rec, answer := .pushed }
    else .fault .illFormedRecord
  else suspend s

/-- ING_POP (R186, R187). -/
def execIngPop (s : State) : Result :=
  if s.ingq.rxOpen then
    match s.ingq.buf with
    | rec :: _ => .next { s with ingq := s.ingq.pop, answer := .popped rec }
    | [] => if s.ingq.txOpen = false then .next (answering .drained s) else suspend s
  else suspend s

/-- EGR_TXCLOSE (R189). -/
def execEgrTxClose (s : State) : Result :=
  if s.egrq.txOpen then .next { s with egrq := s.egrq.dropSender, answer := .none } else suspend s

/-- ING_RXCLOSE (R190). -/
def execIngRxClose (s : State) : Result :=
  if s.ingq.rxOpen then .next { s with ingq := s.ingq.dropReceiver, answer := .none } else suspend s

end Sys2Proof.Machine
end

