-- ==== Sys2Proof/Machine/Frames.lean ====
section
/-! DEFINITION. The meanings of the 14 FRAME13 rows: the reception of a frame of that type on RX (`spec/40_framer_ingress.md`
R132, R138), with the type's own decode of the record (`spec/44_codec_messages.md`). Log entry 4. -/

namespace Sys2Proof.Machine

open Sys2Proof

/-- ERROR (R251). -/
def execError (a : DevAddr) (n : Nat) (p : Payload) (s : State) : Result :=
  let rec_ : WireRecord := ⟨a, MsgType.error.code, n, p⟩
  receiveFrame rec_ (decodeError rec_) s

/-- OUTPUT_CHANGED (R252). -/
def execOutputChanged (a : DevAddr) (n : Nat) (p : Payload) (s : State) : Result :=
  let rec_ : WireRecord := ⟨a, MsgType.outputChanged.code, n, p⟩
  receiveFrame rec_ (decodeOutputChanged s.cfg rec_) s

/-- INPUT_CHANGED (R253). -/
def execInputChanged (a : DevAddr) (n : Nat) (p : Payload) (s : State) : Result :=
  let rec_ : WireRecord := ⟨a, MsgType.inputChanged.code, n, p⟩
  receiveFrame rec_ (decodeInputChanged s.cfg rec_) s

/-- SET_OUTPUT (R254). -/
def execSetOutput (a : DevAddr) (n : Nat) (p : Payload) (s : State) : Result :=
  let rec_ : WireRecord := ⟨a, MsgType.setOutput.code, n, p⟩
  receiveFrame rec_ (decodeSetOutput s.cfg rec_) s

/-- TRIGGER_INPUT (R255). -/
def execTriggerInput (a : DevAddr) (n : Nat) (p : Payload) (s : State) : Result :=
  let rec_ : WireRecord := ⟨a, MsgType.triggerInput.code, n, p⟩
  receiveFrame rec_ (decodeTriggerInput s.cfg rec_) s

/-- CALL_PROCEDURE (R256). -/
def execCallProcedure (a : DevAddr) (n : Nat) (p : Payload) (s : State) : Result :=
  let rec_ : WireRecord := ⟨a, MsgType.callProcedure.code, n, p⟩
  receiveFrame rec_ (decodeCallProcedure rec_) s

/-- SHUTTER_COMMAND (R257). -/
def execShutterCommand (a : DevAddr) (n : Nat) (p : Payload) (s : State) : Result :=
  let rec_ : WireRecord := ⟨a, MsgType.shutterCommand.code, n, p⟩
  receiveFrame rec_ (decodeShutterCommand rec_) s

/-- REQUEST_STATUS (R258). -/
def execRequestStatus (a : DevAddr) (n : Nat) (p : Payload) (s : State) : Result :=
  let rec_ : WireRecord := ⟨a, MsgType.requestStatus.code, n, p⟩
  receiveFrame rec_ (decodeRequestStatus rec_) s

/-- STATUS_IO (R259). -/
def execStatusIo (a : DevAddr) (n : Nat) (p : Payload) (s : State) : Result :=
  let rec_ : WireRecord := ⟨a, MsgType.statusIo.code, n, p⟩
  receiveFrame rec_ (decodeStatusIo s.cfg rec_) s

/-- STATUS (R260). -/
def execStatus (a : DevAddr) (n : Nat) (p : Payload) (s : State) : Result :=
  let rec_ : WireRecord := ⟨a, MsgType.status.code, n, p⟩
  receiveFrame rec_ (decodeStatus rec_) s

/-- TIME_ANNOUNCEMENT (R261). -/
def execTimeAnnouncement (a : DevAddr) (n : Nat) (p : Payload) (s : State) : Result :=
  let rec_ : WireRecord := ⟨a, MsgType.timeAnnouncement.code, n, p⟩
  receiveFrame rec_ (decodeTimeAnnouncement rec_) s

/-- INFO (R262). -/
def execInfo (a : DevAddr) (n : Nat) (p : Payload) (s : State) : Result :=
  let rec_ : WireRecord := ⟨a, MsgType.info.code, n, p⟩
  receiveFrame rec_ (decodeInfo rec_) s

/-- PONG (R263). -/
def execPong (a : DevAddr) (n : Nat) (p : Payload) (s : State) : Result :=
  let rec_ : WireRecord := ⟨a, MsgType.pong.code, n, p⟩
  receiveFrame rec_ (decodePong rec_) s

/-- PING (R264). -/
def execPing (a : DevAddr) (n : Nat) (p : Payload) (s : State) : Result :=
  let rec_ : WireRecord := ⟨a, MsgType.ping.code, n, p⟩
  receiveFrame rec_ (decodePing rec_) s

end Sys2Proof.Machine
end

