-- ==== Sys2Proof/Machine/Ingress.lean ====
section
/-! DEFINITION. The operations of agent ING (`spec/40_framer_ingress.md`): ING.READ and ING.PUSH. -/

namespace Sys2Proof.Machine

open Sys2Proof

/-- A chunk reaches the reading framer (R132): discarded with its event (R134 to R137), or framed (R138). A chunk outside
the type of R23 does not exist (R311). -/
def readChunk (c : List Byte) (s : State) : Result :=
  if c.length = 0 then .fault .emptyChunk
  else if s.cfg.chunkSize < c.length then .fault .chunkTooLong
  else
    match frameChunk c with
    | .error e => .next (answering .none (raise (frameEvent e) (.chunkLength c.length) s))
    | .ok rec => .next (latch rec .none s)

/-- ING.READ (R132, R133, R139). -/
def execIngRead (r : ReadResult) (s : State) : Result :=
  match s.halted, s.ing with
  | false, .read =>
    match r with
    | .zero => .next (answering .none (endFlow .peerDisconnected s))
    | .ioError => .next (answering .none (raise .readIo .none s))
    | .chunk c => readChunk c s
  | _, _ => suspend s

/-- ING.PUSH (R142 to R145): the closed receiver is detected before fullness (R337). -/
def execIngPush (s : State) : Result :=
  match s.halted, s.ing with
  | false, .push rec =>
    if s.ingq.rxOpen = false then .next (answering .none (endFlow .ingressReceiverClosed s))
    else if ingqHasRoom s then .next { s with ingq := s.ingq.push rec, ing := .read, answer := .none }
    else suspend s
  | _, _ => suspend s

end Sys2Proof.Machine
end

