-- ==== Sys2Proof/Machine/Supervisor.lean ====
section
/-! DEFINITION. SUP.HALT (`spec/60_exceptions.md` R352) and RESET (`spec/70_reset_and_hazards.md` R380). -/

namespace Sys2Proof.Machine

open Sys2Proof

/-- The block's result: the first error, else `Ok` (R352, R353). -/
def blockResult (s : State) : FlowResult :=
  match s.firstErr with
  | some e => .err e
  | none => .ok

/-- SUP.HALT (R352, R191): the phases of the flows stay as they are, and INGQ keeps its records. -/
def execSupHalt (s : State) : Result :=
  if s.halted = false ∧ (ingDone s || egrDone s) = true then
    .next (answering (.done (blockResult s)) (raise .halt (.result (blockResult s))
      { s with
        result := some (blockResult s)
        halted := true
        ingq := s.ingq.dropSender
        egrq := s.egrq.dropReceiver }))
  else suspend s

/-- RESET (R380), in any state. -/
def execReset (s : State) : Result := .next (resetBlock s)

end Sys2Proof.Machine
end

