-- ==== Sys2Proof/Machine/Dispatch.lean ====
section
/-! DEFINITION. The dispatch: one arm per row of `spec/opcode_table.json`, one direct call of its meaning. -/

namespace Sys2Proof.Machine

open Sys2Proof

def exec (i : Instr) (s : State) : Host.Outcome State Fault Refusal :=
  match i with
  | .error a n p => Sys2Proof.Machine.execError a n p s
  | .outputChanged a n p => Sys2Proof.Machine.execOutputChanged a n p s
  | .inputChanged a n p => Sys2Proof.Machine.execInputChanged a n p s
  | .setOutput a n p => Sys2Proof.Machine.execSetOutput a n p s
  | .triggerInput a n p => Sys2Proof.Machine.execTriggerInput a n p s
  | .callProcedure a n p => Sys2Proof.Machine.execCallProcedure a n p s
  | .shutterCommand a n p => Sys2Proof.Machine.execShutterCommand a n p s
  | .requestStatus a n p => Sys2Proof.Machine.execRequestStatus a n p s
  | .statusIo a n p => Sys2Proof.Machine.execStatusIo a n p s
  | .status a n p => Sys2Proof.Machine.execStatus a n p s
  | .timeAnnouncement a n p => Sys2Proof.Machine.execTimeAnnouncement a n p s
  | .info a n p => Sys2Proof.Machine.execInfo a n p s
  | .pong a n p => Sys2Proof.Machine.execPong a n p s
  | .ping a n p => Sys2Proof.Machine.execPing a n p s
  | .errorCan a => Sys2Proof.Machine.execErrorCan a s
  | .outputChangedCan a => Sys2Proof.Machine.execOutputChangedCan a s
  | .inputChangedCan a => Sys2Proof.Machine.execInputChangedCan a s
  | .setOutputCan a => Sys2Proof.Machine.execSetOutputCan a s
  | .triggerInputCan a => Sys2Proof.Machine.execTriggerInputCan a s
  | .callProcedureCan a => Sys2Proof.Machine.execCallProcedureCan a s
  | .shutterCommandCan a => Sys2Proof.Machine.execShutterCommandCan a s
  | .requestStatusCan a => Sys2Proof.Machine.execRequestStatusCan a s
  | .statusIoCan a => Sys2Proof.Machine.execStatusIoCan a s
  | .statusCan a => Sys2Proof.Machine.execStatusCan a s
  | .timeAnnouncementCan a => Sys2Proof.Machine.execTimeAnnouncementCan a s
  | .infoCan a => Sys2Proof.Machine.execInfoCan a s
  | .pongCan a => Sys2Proof.Machine.execPongCan a s
  | .pingCan a => Sys2Proof.Machine.execPingCan a s
  | .ingRead r => Sys2Proof.Machine.execIngRead r s
  | .ingPush => Sys2Proof.Machine.execIngPush s
  | .egrRecv => Sys2Proof.Machine.execEgrRecv s
  | .egrWrite w => Sys2Proof.Machine.execEgrWrite w s
  | .egrPush r => Sys2Proof.Machine.execEgrPush r s
  | .ingPop => Sys2Proof.Machine.execIngPop s
  | .egrTxClose => Sys2Proof.Machine.execEgrTxClose s
  | .ingRxClose => Sys2Proof.Machine.execIngRxClose s
  | .supHalt => Sys2Proof.Machine.execSupHalt s
  | .decode r => Sys2Proof.Machine.execDecode r s
  | .encode m a => Sys2Proof.Machine.execEncode m a s
  | .toCan a t => Sys2Proof.Machine.execToCan a t s
  | .splitCan w => Sys2Proof.Machine.execSplitCan w s
  | .reset => Sys2Proof.Machine.execReset s

end Sys2Proof.Machine
end

