-- ==== Sys2Proof/Machine/Fetch.lean ====
section
/-! DEFINITION. Fetching: the instruction a transaction stands for, and what becomes of a transaction whose step is
suspended (log entries 1 and 2). -/

namespace Sys2Proof.Machine

open Sys2Proof

/-- The instruction of a transaction: the row it decodes to. Bytes of RX that are no frame of a named type, or no chunk
of the type of R23, are ING.READ's operand as they are (R132); an identifier that no row names is SPLIT_CAN's (R241). -/
def instrOf (c : Config) : Transaction → Instr
  | .rx r =>
    if r.wf c then
      match decode (.rx r) with
      | .ok i => i
      | .error _ => .ingRead r
    else .ingRead r
  | .can w =>
    match decode (.can w) with
    | .ok i => i
    | .error _ => .splitCan w
  | .op i => i

/-- A suspended transaction is neither dropped nor an error (R16, R185): it stays pending behind the others. -/
def requeue (t : Transaction) (s : State) : State :=
  if s.answer = .suspended then { s with schedule := s.schedule ++ [t] } else s

/-- The outcome of a transaction's step, with `requeue` on its next state. -/
def settleStep (t : Transaction) : Result → Result
  | .next s => .next (requeue t s)
  | .fault f => .fault f
  | .refused r => .refused r

end Sys2Proof.Machine
end

