-- ==== Sys2Proof/Machine/Step.lean ====
section
/-! DEFINITION. One step of the machine (`spec/20_memory.md` R70): the next scheduled transaction is tried. With nothing
scheduled no agent moves. -/

namespace Sys2Proof.Machine

open Sys2Proof

/-- One atomic step. -/
def step (s : State) : Host.Outcome State Fault Refusal :=
  match s.schedule with
  | [] => .next s
  | t :: rest => settleStep t (exec (instrOf s.cfg t) { s with schedule := rest })

/-- `s` with the transaction of a word of the opcode table as the next to be tried (log entry 1). -/
def State.withFetchWord (s : State) (nbits w : Nat) : State :=
  { s with schedule := tableTransaction nbits w :: s.schedule }

end Sys2Proof.Machine
end

