-- ==== Sys2Proof/Safety.lean ====
section
/-! DEFINITION. What a legal state of the block is, in the terms the statements use: the type invariants of
`spec/10_state.md` and what the rules say of every reachable state. Each part is decidable. -/

namespace Sys2Proof.Machine

open Sys2Proof

/-- The records a state holds: both latches and both FIFO buffers (R26, R29). -/
def heldRecords (s : State) : List WireRecord :=
  (match s.ing with
    | .push rec => [rec]
    | .read => []
    | .done _ => []) ++ s.ingq.buf ++
  (match s.egr with
    | .write rec => [rec]
    | .recv => []
    | .done _ => []) ++ s.egrq.buf

/-- R21: no state element ever holds a record that violates the record invariant. -/
abbrev RecordsLegal (s : State) : Prop := ∀ r ∈ heldRecords s, r.wf = true

/-- R182: neither FIFO holds more records than its capacity. -/
abbrev FifosBounded (s : State) : Prop :=
  s.ingq.buf.length ≤ s.cfg.ingCap ∧ s.egrq.buf.length ≤ s.cfg.egrCap

/-- The results the phases may hold: ING ends only with its two errors (R27), EGR only cleanly or with its own (R28). -/
abbrev PhasesLegal (s : State) : Prop :=
  s.ing ≠ .done .writeFailed ∧ s.egr ≠ .done (.err .peerDisconnected) ∧
    s.egr ≠ .done (.err .ingressReceiverClosed)

/-- R331, R351: `first_err` is set exactly when a flow has ended with an error, and to the error of such a flow. -/
abbrev FirstErrLegal (s : State) : Prop :=
  (s.firstErr = none → ingDone s = false ∧ s.egr ≠ .done (.err .writeFailed)) ∧
  (s.firstErr = some .peerDisconnected → s.ing = .done .peerDisconnected) ∧
  (s.firstErr = some .ingressReceiverClosed → s.ing = .done .ingressReceiverClosed) ∧
  (s.firstErr = some .writeFailed → s.egr = .done (.err .writeFailed))

/-- R31, R32, R191, R352: before halt the block keeps its two FIFO ends and has no result; after halt both ends are
dropped, EGRQ is empty, a flow has ended and the result is the first error, else `Ok`. -/
abbrev HaltLegal (s : State) : Prop :=
  (s.halted = false → s.result = none ∧ s.ingq.txOpen = true ∧ s.egrq.rxOpen = true) ∧
  (s.halted = true → s.result = some (blockResult s) ∧ s.ingq.txOpen = false ∧ s.egrq.rxOpen = false ∧
    s.egrq.buf = [] ∧ (ingDone s = true ∨ egrDone s = true))

/-- R190: a FIFO whose receiver is gone holds no record. -/
abbrev ClosedIsEmpty (s : State) : Prop := s.ingq.rxOpen = false → s.ingq.buf = []

/-- The invariant of the block under legal parameters (R8). -/
abbrev BlockInv (s : State) : Prop :=
  s.cfg.legal = true ∧ RecordsLegal s ∧ FifosBounded s ∧ PhasesLegal s ∧ FirstErrLegal s ∧ HaltLegal s ∧ ClosedIsEmpty s

/-- A safe outcome: the machine goes on. -/
def goesOn : Result → Bool
  | .next _ => true
  | .fault _ => false
  | .refused _ => false

/-- ING is at its read suspension point and the block is not halted: the guard of ING.READ (R132). -/
def reading (s : State) : Bool := !s.halted && (s.ing == .read)

/-- The instructions in which agent ING moves: its two operations and the reception of a frame. -/
def isIngStep : Instr → Bool
  | .error _ _ _ | .outputChanged _ _ _ | .inputChanged _ _ _ | .setOutput _ _ _ | .triggerInput _ _ _
  | .callProcedure _ _ _ | .shutterCommand _ _ _ | .requestStatus _ _ _ | .statusIo _ _ _ | .status _ _ _
  | .timeAnnouncement _ _ _ | .info _ _ _ | .pong _ _ _ | .ping _ _ _ | .ingRead _ | .ingPush => true
  | _ => false

/-- The instructions in which agent EGR moves. -/
def isEgrStep : Instr → Bool
  | .egrRecv | .egrWrite _ => true
  | _ => false

/-- The codec calls and the CAN11 rows, which are codec calls too (R11, R211). -/
def isCodecCall : Instr → Bool
  | .errorCan _ | .outputChangedCan _ | .inputChangedCan _ | .setOutputCan _ | .triggerInputCan _
  | .callProcedureCan _ | .shutterCommandCan _ | .requestStatusCan _ | .statusIoCan _ | .statusCan _
  | .timeAnnouncementCan _ | .infoCan _ | .pongCan _ | .pingCan _
  | .decode _ | .encode _ _ | .toCan _ _ | .splitCan _ => true
  | _ => false

end Sys2Proof.Machine
end

