-- ==== Sys2Proof/Certificates/Slice0/Obligations.lean ====
section
/-! DEFINITION. The statements for the provers, `def Obligations.<Name> : Prop`, and the few helpers they are written
with. Nothing here is proved.

Every equation of a whole next state names the model's own field `answer` (log entry 5): what the operation answers on its
port, `.none` where it answers nothing, `.suspended` where its guard fails and it waits (R16). -/

open Sys2Proof Sys2Proof.Machine

/-! ## Helpers of the statements -/

/-- The guard of every operation, from the line "Guard" of its rule; a FRAME13 row's is ING.READ's (R132, R142, R161,
R163, R184, R186, R189, R190, R352), the codec's and RESET's is true (R211, R380). -/
def Sys2Proof.Machine.guardHolds (i : Instr) (s : State) : Bool :=
  match i with
  | .error _ _ _ | .outputChanged _ _ _ | .inputChanged _ _ _ | .setOutput _ _ _ | .triggerInput _ _ _
  | .callProcedure _ _ _ | .shutterCommand _ _ _ | .requestStatus _ _ _ | .statusIo _ _ _ | .status _ _ _
  | .timeAnnouncement _ _ _ | .info _ _ _ | .pong _ _ _ | .ping _ _ _ | .ingRead _ => reading s
  | .ingPush =>
    match s.ing with
    | .push _ => !s.halted && (!s.ingq.rxOpen || decide (s.ingq.buf.length < s.cfg.ingCap))
    | .read => false
    | .done _ => false
  | .egrRecv => !s.halted && (s.egr == .recv) && (!s.egrq.buf.isEmpty || !s.egrq.txOpen)
  | .egrWrite _ =>
    match s.egr with
    | .write _ => !s.halted
    | .recv => false
    | .done _ => false
  | .egrPush _ => s.egrq.txOpen && (!s.egrq.rxOpen || decide (s.egrq.buf.length < s.cfg.egrCap))
  | .ingPop => s.ingq.rxOpen && (!s.ingq.buf.isEmpty || !s.ingq.txOpen)
  | .egrTxClose => s.egrq.txOpen
  | .ingRxClose => s.ingq.rxOpen
  | .supHalt => !s.halted && (ingDone s || egrDone s)
  | _ => true

/-- What rule R250 says of `decode` for a type with code `code` and length `len`: DECODE of a well-formed record answers the
length mismatch or what `dec` gives, and changes nothing else. -/
def Sys2Proof.Machine.decodesAs (code : TypeCode) (len : Nat) (dec : Config → Payload → Except DecodeError Message) : Prop :=
  ∀ (s : State) (a : DevAddr) (n : Nat) (p : Payload), frameWf n p = true →
    exec (.decode ⟨a, code, n, p⟩) s =
      .next { s with answer := .decoded (if n = len then dec s.cfg p else .error .lengthMismatch) }

/-- The reception of a frame of one FRAME13 row, code `code` (log entry 4). -/
def Sys2Proof.Machine.receivesAs (row : DevAddr → Nat → Payload → Instr) (code : TypeCode) : Prop :=
  ∀ (s : State) (a : DevAddr) (n : Nat) (p : Payload), reading s = true → frameWf n p = true →
    exec (row a n p) s =
      .next { s with
        ing := .push ⟨a, code, n, p⟩
        answer := .decoded (decodeRecord s.cfg ⟨a, code, n, p⟩) }

/-- What rule R250 says of `encode` for one message: the low 6 bits of the address (R226), the type's code and length,
and the payload `pay` of the parameters. -/
def Sys2Proof.Machine.encodesAs (m : Message) (code : TypeCode) (len : Nat) (pay : Config → Payload) : Prop :=
  ∀ (s : State) (a : Byte),
    exec (.encode m a) s =
      .next { s with answer := .encoded ⟨a.extractLsb' 0 6, code, len, pay s.cfg⟩ }

/-- The OutputState of a byte (R99), written out. -/
def Sys2Proof.Machine.outStateOf (c : Config) (b : Byte) (k : OutputState → Message) : Except DecodeError Message :=
  if b = c.outState.off then .ok (k .off)
  else if b = 1 then .ok (k .on)
  else if b = c.outState.toggle then .ok (k .toggle)
  else .error .invalidEnumValue

/-- The Trigger of a byte (R99), written out. -/
def Sys2Proof.Machine.triggerOf (c : Config) (b : Byte) (k : Trigger → Message) : Except DecodeError Message :=
  if b = c.trigger.shortClick then .ok (k .shortClick)
  else if b = c.trigger.longClick then .ok (k .longClick)
  else if b = c.trigger.activated then .ok (k .activated)
  else if b = c.trigger.deactivated then .ok (k .deactivated)
  else if b = c.trigger.longActivated then .ok (k .longActivated)
  else if b = c.trigger.longDeactivated then .ok (k .longDeactivated)
  else .error .invalidEnumValue

/-- A frame whose header bytes are `a`, `t`, `n` and whose payload slot is `p` (R90), as a list. -/
def Sys2Proof.Machine.frameOf (a t n : Byte) (p : Payload) : List Byte :=
  [0x21, 0x7C, a, t, n, p.b0, p.b1, p.b2, p.b3, p.b4, p.b5, p.b6, p.b7]

/-- The payload with the bytes at and beyond `n` replaced by zero (R93). -/
def Sys2Proof.Machine.cutPayload (n : Nat) (p : Payload) : Payload :=
  ⟨if 0 < n then p.b0 else 0, if 1 < n then p.b1 else 0, if 2 < n then p.b2 else 0, if 3 < n then p.b3 else 0,
    if 4 < n then p.b4 else 0, if 5 < n then p.b5 else 0, if 6 < n then p.b6 else 0, if 7 < n then p.b7 else 0⟩

/-- `k` steps of the machine. -/
def Sys2Proof.Machine.stepsFrom : Nat → State → Host.Outcome State Fault Refusal
  | 0, s => .next s
  | k + 1, s =>
    match step s with
    | .next t => stepsFrom k t
    | .fault f => .fault f
    | .refused r => .refused r

/-- The records accepted by EGR_PUSH and not yet presented on TX, oldest first: the WRITE latch, then EGRQ (R169). -/
def Sys2Proof.Machine.egressPipe (s : State) : List WireRecord :=
  (match s.egr with
    | .write rec => [rec]
    | .recv => []
    | .done _ => []) ++ s.egrq.buf

/-- The records framed and not yet popped, oldest first: INGQ, then the PUSH latch. -/
def Sys2Proof.Machine.ingressPipe (s : State) : List WireRecord :=
  s.ingq.buf ++
  (match s.ing with
    | .push rec => [rec]
    | .read => []
    | .done _ => [])

/-- The record that the step from `s` to `t` accepted by EGR_PUSH, if it did. -/
def Sys2Proof.Machine.acceptedBy (s t : State) : List WireRecord :=
  match s.schedule, t.answer with
  | .op (.egrPush r) :: _, .pushed => [r]
  | _, _ => []

/-- The record that the step from `s` to `t` framed from a chunk, if it did. -/
def Sys2Proof.Machine.framedBy (s t : State) : List WireRecord :=
  match s.ing, t.ing with
  | .read, .push r => [r]
  | _, _ => []

/-- The record that the step from `s` to `t` handed to APPC by ING_POP, if it did. -/
def Sys2Proof.Machine.poppedBy (s t : State) : List WireRecord :=
  match s.schedule, t.answer with
  | .op .ingPop :: _, .popped r => [r]
  | _, _ => []

/-- What `f` gives of each of the next `k` steps, in order. -/
def Sys2Proof.Machine.along (f : State → State → List WireRecord) : Nat → State → List WireRecord
  | 0, _ => []
  | k + 1, s =>
    match step s with
    | .next t => f s t ++ along f k t
    | .fault _ => []
    | .refused _ => []

/-! ## Encoding, decoding, the step -/

/-- Every well-formed instruction, encoded and decoded, is itself (R90, R96, R107). -/
def Obligations.DecodeOfEncodeIsTheInstruction : Prop :=
  ∀ (c : Config) (i : Instr), i.wf c = true → decode (encode i) = .ok i

/-- Words written out from R90, R92, R96 and the vectors of spec/95 decode to the rows they stand for. -/
def Obligations.TableWordsDecodeAsWritten : Prop :=
  decodeTableWord 32 0x02007C21 = some (.error 0 0 Payload.zero) ∧
  decodeTableWord 104 0x01050208027C21 = some (.setOutput 2 2 ⟨5, 1, 0, 0, 0, 0, 0, 0⟩) ∧
  decodeTableWord 104 0x051E0F0A010307E808113F7C21 =
    some (.timeAnnouncement 63 8 ⟨0xE8, 0x07, 3, 1, 10, 15, 30, 5⟩) ∧
  decodeTableWord 104 0xDEADBEEF0402057C21 = some (.error 5 4 ⟨0xEF, 0xBE, 0xAD, 0xDE, 0, 0, 0, 0⟩) ∧
  decodeTableWord 104 0x02010B04 = none ∧
  decodeTableWord 16 0x202 = some (.setOutputCan 2) ∧
  decodeTableWord 16 0x47F = some (.timeAnnouncementCan 63) ∧
  decodeTableWord 16 0x7C0 = none

/-- A step runs the decoded instruction, the transaction taken off the schedule; a suspended one goes behind the others
(the queueing is the model's choice, log entries 1 and 2). An operation whose operand its port excludes faults the step
(log entry 8). -/
def Obligations.StepRunsTheDecodedInstruction : Prop :=
  (∀ (s : State) (t : Transaction) (rest : List Transaction) (i : Instr),
    s.schedule = t :: rest → t.wf s.cfg = true → decode t = .ok i →
    ∃ u, exec i { s with schedule := rest } = .next u ∧
      (u.answer ≠ .suspended → step s = .next u) ∧
      (u.answer = .suspended → step s = .next { u with schedule := u.schedule ++ [t] })) ∧
  (∀ (s : State) (rest : List Transaction) (i : Instr) (f : Fault),
    s.schedule = .op i :: rest → exec i { s with schedule := rest } = .fault f → step s = .fault f)

/-- What is no row of the table still runs: other read results are ING.READ's operand, other identifiers SPLIT_CAN's,
and with nothing scheduled no agent moves (the model's choice, log entry 1). -/
def Obligations.StepRunsWhatDecodesToNoRow : Prop :=
  (∀ (s : State) (r : ReadResult) (rest : List Transaction) (e : Undecoded),
    s.schedule = .rx r :: rest → decode (.rx r) = .error e →
    step s = settleStep (.rx r) (exec (.ingRead r) { s with schedule := rest })) ∧
  (∀ (s : State) (w : BitVec 16) (rest : List Transaction) (e : Undecoded),
    s.schedule = .can w :: rest → decode (.can w) = .error e →
    step s = settleStep (.can w) (exec (.splitCan w) { s with schedule := rest })) ∧
  (∀ s : State, s.schedule = [] → step s = .next s)

/-! ## The framer and the serializer as functions -/

/-- R148 (the spec's own derivation): framing is a left inverse of serialising; the converse does not hold. -/
def Obligations.FramingInvertsSerialising : Prop :=
  (∀ rec : WireRecord, rec.wf = true → frameChunk (serialize rec) = .ok rec) ∧
  (∃ (c d : List Byte) (rec : WireRecord), c ≠ d ∧ frameChunk c = .ok rec ∧ frameChunk d = .ok rec)

/-- R131: the checks in their order, over every chunk of at least one byte. Its last sentence says that the test of a missing
byte 1 and the test of the length byte are the spec's own decisions (D6, D5). -/
def Obligations.FrameChunkChecksInOrder : Prop :=
  (∀ (b : Byte) (rest : List Byte), b ≠ 0x21 → frameChunk (b :: rest) = .error .sync) ∧
  frameChunk [0x21] = .error .short ∧
  (∀ (b : Byte) (rest : List Byte), b ≠ 0x7C → frameChunk (0x21 :: b :: rest) = .error .family) ∧
  (∀ rest : List Byte, rest.length < 11 → frameChunk (0x21 :: 0x7C :: rest) = .error .short) ∧
  (∀ (a t n : Byte) (p : Payload) (rest : List Byte), 8 < n.toNat →
    frameChunk (frameOf a t n p ++ rest) = .error .badLen) ∧
  (∀ (a t n : Byte) (p : Payload) (rest : List Byte), n.toNat ≤ 8 →
    frameChunk (frameOf a t n p ++ rest) =
      .ok ⟨a.extractLsb' 0 6, t.extractLsb' 0 5, n.toNat, cutPayload n.toNat p⟩)

/-- R131: what `frame_chunk` returns is a well-formed record, for any list of bytes. -/
def Obligations.FramedRecordsAreWellFormed : Prop :=
  ∀ (c : List Byte) (rec : WireRecord), frameChunk c = .ok rec → rec.wf = true

/-- R104: the ignored positions have no effect on receive and are zero on transmit. -/
def Obligations.IgnoredBitsHaveNoEffect : Prop :=
  (∀ (a a' t t' n : Byte) (p p' : Payload) (rest rest' : List Byte),
    a.extractLsb' 0 6 = a'.extractLsb' 0 6 → t.extractLsb' 0 5 = t'.extractLsb' 0 5 →
    (∀ i, i < n.toNat → p.get i = p'.get i) →
    frameChunk (frameOf a t n p ++ rest) = frameChunk (frameOf a' t' n p' ++ rest')) ∧
  (∀ rec : WireRecord, rec.wf = true →
    ((serialize rec).getD 2 0).toNat < 64 ∧ ((serialize rec).getD 3 0).toNat < 32 ∧
    ∀ i, rec.length ≤ i → (serialize rec).getD (5 + i) 0 = 0)

/-- R94: every byte of the frame of a well-formed record. -/
def Obligations.SerializeWritesTheFrame : Prop :=
  ∀ rec : WireRecord, rec.wf = true →
    (serialize rec).length = 13 ∧
    (serialize rec)[0]? = some 0x21 ∧ (serialize rec)[1]? = some 0x7C ∧
    ((serialize rec).getD 2 0).toNat = rec.addr.toNat ∧
    ((serialize rec).getD 3 0).toNat = rec.msgType.toNat ∧
    ((serialize rec).getD 4 0).toNat = rec.length ∧
    ∀ i, i < 8 → (serialize rec)[5 + i]? = some (rec.payload.get i)

/-! ## ING -/

/-- R133: a zero-length read ends the ingress flow; ING takes no further step and the halt step is enabled. -/
def Obligations.ZeroLengthReadEndsIngress : Prop :=
  ∀ s : State, reading s = true →
    ∃ t, exec (.ingRead .zero) s = .next t ∧
      t = { s with
        ing := .done .peerDisconnected
        firstErr := some (s.firstErr.getD .peerDisconnected)
        log := s.log ++ [⟨.zeroRead, .none⟩]
        answer := .none } ∧
      (∀ i, isIngStep i = true → exec i t = .next { t with answer := .suspended }) ∧
      ∃ u, exec .supHalt t = .next u ∧ u.halted = true

/-- R339: the five non-fatal events of the block. One log entry, the phase stays READ, nothing else changes; a chunk that
is framed yields its one record whole. -/
def Obligations.NonFatalReadsOnlyLog : Prop :=
  ∀ s : State, reading s = true →
    exec (.ingRead .ioError) s =
      .next { s with ing := .read, log := s.log ++ [⟨.readIo, .none⟩], answer := .none } ∧
    ∀ c : List Byte, 1 ≤ c.length → c.length ≤ s.cfg.chunkSize →
      (frameChunk c = .error .sync →
        exec (.ingRead (.chunk c)) s =
          .next { s with ing := .read, log := s.log ++ [⟨.sync, .chunkLength c.length⟩], answer := .none }) ∧
      (frameChunk c = .error .family →
        exec (.ingRead (.chunk c)) s =
          .next { s with ing := .read, log := s.log ++ [⟨.family, .chunkLength c.length⟩], answer := .none }) ∧
      (frameChunk c = .error .short →
        exec (.ingRead (.chunk c)) s =
          .next { s with ing := .read, log := s.log ++ [⟨.short, .chunkLength c.length⟩], answer := .none }) ∧
      (frameChunk c = .error .badLen →
        exec (.ingRead (.chunk c)) s =
          .next { s with ing := .read, log := s.log ++ [⟨.badLen, .chunkLength c.length⟩], answer := .none }) ∧
      (∀ rec, frameChunk c = .ok rec →
        exec (.ingRead (.chunk c)) s = .next { s with ing := .push rec, answer := .none })

/-- R140 (the spec's own decision D8): whatever follows the first 13 bytes, a good first frame yields its record and no log entry. -/
def Obligations.BytesAfterTheFirstFrameAreLost : Prop :=
  ∀ (s : State) (c d : List Byte) (rec : WireRecord), reading s = true → c.length = 13 →
    (c ++ d).length ≤ s.cfg.chunkSize → frameChunk c = .ok rec →
    exec (.ingRead (.chunk (c ++ d))) s = .next { s with ing := .push rec, answer := .none }

/-- R142: ING.PUSH appends, fails on a closed receiver, or is suspended: on a full FIFO, without a record, when halted. -/
def Obligations.IngPushEffect : Prop :=
  (∀ s : State, s.halted = true ∨ (∀ rec, s.ing ≠ .push rec) →
    exec .ingPush s = .next { s with answer := .suspended }) ∧
  ∀ (s : State) (rec : WireRecord), s.halted = false → s.ing = .push rec →
    (s.ingq.rxOpen = false →
      exec .ingPush s =
        .next { s with
          ing := .done .ingressReceiverClosed
          firstErr := some (s.firstErr.getD .ingressReceiverClosed)
          log := s.log ++ [⟨.ingClosed, .none⟩]
          answer := .none }) ∧
    (s.ingq.rxOpen = true → s.ingq.buf.length < s.cfg.ingCap →
      exec .ingPush s =
        .next { s with
          ing := .read
          ingq := { s.ingq with buf := s.ingq.buf ++ [rec] }
          answer := .none }) ∧
    (s.ingq.rxOpen = true → s.cfg.ingCap ≤ s.ingq.buf.length →
      exec .ingPush s = .next { s with answer := .suspended })

/-! ## EGR -/

/-- R161: EGR.RECV pops the oldest record, ends cleanly on an empty closed FIFO, or is suspended. -/
def Obligations.EgrRecvEffect : Prop :=
  (∀ s : State, s.halted = true ∨ s.egr ≠ .recv → exec .egrRecv s = .next { s with answer := .suspended }) ∧
  ∀ s : State, s.halted = false → s.egr = .recv →
    (∀ rec rest, s.egrq.buf = rec :: rest →
      exec .egrRecv s =
        .next { s with egr := .write rec, egrq := { s.egrq with buf := rest }, answer := .none }) ∧
    (s.egrq.buf = [] → s.egrq.txOpen = false →
      exec .egrRecv s = .next { s with egr := .done .ok, answer := .none }) ∧
    (s.egrq.buf = [] → s.egrq.txOpen = true →
      exec .egrRecv s = .next { s with answer := .suspended })

/-- R163, R164: EGR.WRITE presents the record's frame; WriteOk goes on, WriteError ends the flow. -/
def Obligations.EgrWriteEffect : Prop :=
  (∀ (s : State) (w : WriteResult), s.halted = true ∨ (∀ rec, s.egr ≠ .write rec) →
    exec (.egrWrite w) s = .next { s with answer := .suspended }) ∧
  ∀ (s : State) (rec : WireRecord), s.halted = false → s.egr = .write rec →
    exec (.egrWrite .writeOk) s =
      .next { s with egr := .recv, tx := s.tx ++ [⟨serialize rec, .writeOk⟩], answer := .none } ∧
    exec (.egrWrite .writeError) s =
      .next { s with
        egr := .done (.err .writeFailed)
        firstErr := some (s.firstErr.getD .writeFailed)
        log := s.log ++ [⟨.writeIo, .none⟩]
        tx := s.tx ++ [⟨serialize rec, .writeError⟩]
        answer := .none }

/-! ## The application's FIFO operations -/

/-- R184: EGR_PUSH of a well-formed record answers Err(Closed), accepts, or is suspended. -/
def Obligations.EgrPushEffect : Prop :=
  (∀ (s : State) (rec : WireRecord), s.egrq.txOpen = false →
    exec (.egrPush rec) s = .next { s with answer := .suspended }) ∧
  ∀ (s : State) (rec : WireRecord), rec.wf = true → s.egrq.txOpen = true →
    (s.egrq.rxOpen = false → exec (.egrPush rec) s = .next { s with answer := .closed }) ∧
    (s.egrq.rxOpen = true → s.egrq.buf.length < s.cfg.egrCap →
      exec (.egrPush rec) s =
        .next { s with egrq := { s.egrq with buf := s.egrq.buf ++ [rec] }, answer := .pushed }) ∧
    (s.egrq.rxOpen = true → s.cfg.egrCap ≤ s.egrq.buf.length →
      exec (.egrPush rec) s = .next { s with answer := .suspended })

/-- R186: ING_POP answers the oldest record, or None on an empty closed FIFO, or is suspended. -/
def Obligations.IngPopEffect : Prop :=
  (∀ s : State, s.ingq.rxOpen = false → exec .ingPop s = .next { s with answer := .suspended }) ∧
  ∀ s : State, s.ingq.rxOpen = true →
    (∀ rec rest, s.ingq.buf = rec :: rest →
      exec .ingPop s = .next { s with ingq := { s.ingq with buf := rest }, answer := .popped rec }) ∧
    (s.ingq.buf = [] → s.ingq.txOpen = false → exec .ingPop s = .next { s with answer := .drained }) ∧
    (s.ingq.buf = [] → s.ingq.txOpen = true → exec .ingPop s = .next { s with answer := .suspended })

/-- R189: EGR_TXCLOSE clears the flag and keeps the records; no push is possible after it. -/
def Obligations.EgrTxCloseEffect : Prop :=
  ∀ s : State, s.egrq.txOpen = true →
    ∃ t, exec .egrTxClose s = .next t ∧
      t = { s with egrq := { s.egrq with txOpen := false }, answer := .none } ∧
      ∀ rec, exec (.egrPush rec) t = .next { t with answer := .suspended }

/-- R190: ING_RXCLOSE clears the flag and destroys the records; the next push fails fatally, no pop is possible. -/
def Obligations.IngRxCloseEffect : Prop :=
  ∀ s : State, s.ingq.rxOpen = true →
    ∃ t, exec .ingRxClose s = .next t ∧
      t = { s with ingq := { s.ingq with rxOpen := false, buf := [] }, answer := .none } ∧
      exec .ingPop t = .next { t with answer := .suspended } ∧
      (∀ rec, t.halted = false → t.ing = .push rec →
        ∃ u, exec .ingPush t = .next u ∧ u.ing = .done .ingressReceiverClosed)

/-! ## SUP, halt, reset -/

/-- R352: what SUP.HALT does, and that no step of ING, EGR or SUP is enabled after it. -/
def Obligations.SupHaltEffect : Prop :=
  ∀ s : State, s.halted = false → (ingDone s = true ∨ egrDone s = true) →
    ∃ t r, exec .supHalt s = .next t ∧
      r = (match s.firstErr with
        | some e => FlowResult.err e
        | none => FlowResult.ok) ∧
      t = { s with
        result := some r
        halted := true
        ingq := { s.ingq with txOpen := false }
        egrq := { s.egrq with rxOpen := false, buf := [] }
        log := s.log ++ [⟨.halt, .result r⟩]
        answer := .done r }

/-- R32: once halted, no agent of the block has an enabled step until reset. -/
def Obligations.HaltedBlockTakesNoStep : Prop :=
  ∀ (i : Instr) (s : State), s.halted = true → (isIngStep i || isEgrStep i || (i == .supHalt)) = true →
    exec i s = .next { s with answer := .suspended }

/-- R146, R168: an ended flow has no step. -/
def Obligations.EndedFlowTakesNoStep : Prop :=
  (∀ (i : Instr) (s : State), isIngStep i = true → ingDone s = true →
    exec i s = .next { s with answer := .suspended }) ∧
  (∀ (i : Instr) (s : State), isEgrStep i = true → egrDone s = true →
    exec i s = .next { s with answer := .suspended })

/-- R353: the first error is the one reported, whatever happens before the halt. -/
def Obligations.FirstErrorIsReported : Prop :=
  (∀ (i : Instr) (s t : State) (e : FlowErr), i ≠ .reset → s.firstErr = some e → exec i s = .next t →
    t.firstErr = some e ∧
    (i = .supHalt → t.answer ≠ .suspended → t.result = some (.err e))) ∧
  (∀ s : State, reading s = true → s.egr = .done .ok → s.firstErr = none →
    ∃ t u, exec (.ingRead .zero) s = .next t ∧ exec .supHalt t = .next u ∧
      u.result = some (.err .peerDisconnected))

/-- R380: RESET, in any state, puts every element of R26 to its reset value and leaves the parameters. That the TX
history and the schedule stay is the model's choice (log entry 9). -/
def Obligations.ResetEffect : Prop :=
  ∀ s : State, ∃ t, exec .reset s = .next t ∧
    t.ing = .read ∧ t.egr = .recv ∧ t.ingq = ⟨[], true, true⟩ ∧ t.egrq = ⟨[], true, true⟩ ∧
    t.halted = false ∧ t.firstErr = none ∧ t.result = none ∧ t.log = [] ∧
    t.cfg = s.cfg ∧ t.tx = s.tx ∧ t.schedule = s.schedule ∧ t.answer = .none

/-- R38 (the spec's own decision D14): the state after reset. -/
def Obligations.ResetStateValues : Prop :=
  State.reset.ing = .read ∧ State.reset.egr = .recv ∧
  State.reset.ingq = ⟨[], true, true⟩ ∧ State.reset.egrq = ⟨[], true, true⟩ ∧
  State.reset.halted = false ∧ State.reset.firstErr = none ∧ State.reset.result = none ∧ State.reset.log = []

/-- R16, R21, R23: every instruction, in every state, waits where its guard fails (nothing of the state changes), runs
where the guard holds and the operands are well-formed, and faults only on an operand its port excludes (the fault is the
model's choice, log entry 8). -/
def Obligations.EveryInstructionRunsOrWaits : Prop :=
  ∀ (i : Instr) (s : State),
    (guardHolds i s = false → exec i s = .next { s with answer := .suspended }) ∧
    (guardHolds i s = true → i.wf s.cfg = true → ∃ t, exec i s = .next t ∧ t.answer ≠ .suspended) ∧
    (guardHolds i s = true → i.wf s.cfg = false → ∃ f, exec i s = .fault f)

/-! ## The message types -/

/-- R251: ERROR. -/
def Obligations.ErrorMessageLayout : Prop :=
  decodesAs 0x02 4 (fun _ p => .ok (.error (p.b3 ++ p.b2 ++ p.b1 ++ p.b0))) ∧
  (∀ c0 c1 c2 c3 : Byte, encodesAs (.error (c3 ++ c2 ++ c1 ++ c0)) 0x02 4 fun _ => ⟨c0, c1, c2, c3, 0, 0, 0, 0⟩) ∧
  serialize (encodeMessage Config.reference (.error 0xDEADBEEF) 5) =
    [0x21, 0x7C, 0x05, 0x02, 0x04, 0xEF, 0xBE, 0xAD, 0xDE, 0x00, 0x00, 0x00, 0x00]

/-- R252, R254: OUTPUT_CHANGED and SET_OUTPUT, one layout. -/
def Obligations.OutputMessageLayouts : Prop :=
  decodesAs 0x04 2 (fun c p => outStateOf c p.b1 (.outputChanged p.b0)) ∧
  decodesAs 0x08 2 (fun c p => outStateOf c p.b1 (.setOutput p.b0)) ∧
  (∀ index : Byte,
    encodesAs (.outputChanged index .off) 0x04 2 (fun c => ⟨index, c.outState.off, 0, 0, 0, 0, 0, 0⟩) ∧
    encodesAs (.outputChanged index .on) 0x04 2 (fun _ => ⟨index, 1, 0, 0, 0, 0, 0, 0⟩) ∧
    encodesAs (.outputChanged index .toggle) 0x04 2 (fun c => ⟨index, c.outState.toggle, 0, 0, 0, 0, 0, 0⟩) ∧
    encodesAs (.setOutput index .off) 0x08 2 (fun c => ⟨index, c.outState.off, 0, 0, 0, 0, 0, 0⟩) ∧
    encodesAs (.setOutput index .on) 0x08 2 (fun _ => ⟨index, 1, 0, 0, 0, 0, 0, 0⟩) ∧
    encodesAs (.setOutput index .toggle) 0x08 2 (fun c => ⟨index, c.outState.toggle, 0, 0, 0, 0, 0, 0⟩)) ∧
  decodeRecord Config.reference ⟨7, 0x04, 2, ⟨3, 0, 0, 0, 0, 0, 0, 0⟩⟩ = .ok (.outputChanged 3 .off) ∧
  serialize (encodeMessage Config.reference (.setOutput 5 .on) 2) =
    [0x21, 0x7C, 0x02, 0x08, 0x02, 0x05, 0x01, 0x00, 0x00, 0x00, 0x00, 0x00, 0x00]

/-- R253, R255: INPUT_CHANGED and TRIGGER_INPUT, one layout. -/
def Obligations.InputMessageLayouts : Prop :=
  decodesAs 0x05 2 (fun c p => triggerOf c p.b1 (.inputChanged p.b0)) ∧
  decodesAs 0x09 2 (fun c p => triggerOf c p.b1 (.triggerInput p.b0)) ∧
  (∀ (index : Byte) (g : Trigger),
    encodesAs (.inputChanged index g) 0x05 2 (fun c => ⟨index, triggerCode c g, 0, 0, 0, 0, 0, 0⟩) ∧
    encodesAs (.triggerInput index g) 0x09 2 (fun c => ⟨index, triggerCode c g, 0, 0, 0, 0, 0, 0⟩)) ∧
  (∀ c : Config, triggerCode c .shortClick = c.trigger.shortClick ∧ triggerCode c .longClick = c.trigger.longClick ∧
    triggerCode c .activated = c.trigger.activated ∧ triggerCode c .deactivated = c.trigger.deactivated ∧
    triggerCode c .longActivated = c.trigger.longActivated ∧
    triggerCode c .longDeactivated = c.trigger.longDeactivated) ∧
  decodeRecord Config.reference ⟨1, 0x05, 2, ⟨4, 1, 0, 0, 0, 0, 0, 0⟩⟩ = .ok (.inputChanged 4 .longClick) ∧
  encodeMessage Config.reference (.triggerInput 0 .shortClick) 9 = ⟨9, 0x09, 2, ⟨0, 0, 0, 0, 0, 0, 0, 0⟩⟩

/-- R256: CALL_PROCEDURE. -/
def Obligations.CallProcedureMessageLayout : Prop :=
  decodesAs 0x0A 1 (fun _ p => .ok (.callProcedure p.b0)) ∧
  (∀ b : Byte, encodesAs (.callProcedure b) 0x0A 1 fun _ => ⟨b, 0, 0, 0, 0, 0, 0, 0⟩) ∧
  serialize (encodeMessage Config.reference (.callProcedure 7) 12) =
    [0x21, 0x7C, 0x0C, 0x0A, 0x01, 0x07, 0x00, 0x00, 0x00, 0x00, 0x00, 0x00, 0x00]

/-- R257, R101: SHUTTER_COMMAND decodes to UnknownType, whatever its length and payload, is framed and serialised like any
other, and `encode` cannot produce it. The row's own answer is the model's choice (log entry 4). -/
def Obligations.ShutterCommandIsCarriedButUnknown : Prop :=
  (∀ (s : State) (a : DevAddr) (n : Nat) (p : Payload), frameWf n p = true →
    exec (.decode ⟨a, 0x0B, n, p⟩) s = .next { s with answer := .decoded (.error .unknownType) } ∧
    frameChunk (serialize ⟨a, 0x0B, n, p⟩) = .ok ⟨a, 0x0B, n, p⟩ ∧
    (reading s = true →
      exec (.shutterCommand a n p) s =
        .next { s with ing := .push ⟨a, 0x0B, n, p⟩, answer := .decoded (.error .unknownType) })) ∧
  (∀ (c : Config) (m : Message) (a : Byte), (encodeMessage c m a).msgType ≠ 0x0B)

/-- R258: REQUEST_STATUS. -/
def Obligations.RequestStatusMessageLayout : Prop :=
  decodesAs 0x0D 0 (fun _ _ => .ok .requestStatus) ∧
  encodesAs .requestStatus 0x0D 0 (fun _ => ⟨0, 0, 0, 0, 0, 0, 0, 0⟩) ∧
  serialize (encodeMessage Config.reference .requestStatus 3) =
    [0x21, 0x7C, 0x03, 0x0D, 0x00, 0x00, 0x00, 0x00, 0x00, 0x00, 0x00, 0x00, 0x00]

/-- R259: STATUS_IO; either enum byte out of range gives the one error. -/
def Obligations.StatusIoMessageLayout : Prop :=
  decodesAs 0x0E 3 (fun c p =>
    if p.b1 = 0 then
      if p.b2 = c.ioState.off then .ok (.statusIo p.b0 .input .off)
      else if p.b2 = c.ioState.on then .ok (.statusIo p.b0 .input .on)
      else .error .invalidEnumValue
    else if p.b1 = 1 then
      if p.b2 = c.ioState.off then .ok (.statusIo p.b0 .output .off)
      else if p.b2 = c.ioState.on then .ok (.statusIo p.b0 .output .on)
      else .error .invalidEnumValue
    else .error .invalidEnumValue) ∧
  (∀ index : Byte,
    encodesAs (.statusIo index .input .off) 0x0E 3 (fun c => ⟨index, 0, c.ioState.off, 0, 0, 0, 0, 0⟩) ∧
    encodesAs (.statusIo index .input .on) 0x0E 3 (fun c => ⟨index, 0, c.ioState.on, 0, 0, 0, 0, 0⟩) ∧
    encodesAs (.statusIo index .output .off) 0x0E 3 (fun c => ⟨index, 1, c.ioState.off, 0, 0, 0, 0, 0⟩) ∧
    encodesAs (.statusIo index .output .on) 0x0E 3 (fun c => ⟨index, 1, c.ioState.on, 0, 0, 0, 0, 0⟩)) ∧
  decodeRecord Config.reference ⟨6, 0x0E, 3, ⟨2, 1, 1, 0, 0, 0, 0, 0⟩⟩ = .ok (.statusIo 2 .output .on)

/-- R260: STATUS. -/
def Obligations.StatusMessageLayout : Prop :=
  decodesAs 0x10 8 (fun _ p =>
    .ok (.status (p.b3 ++ p.b2 ++ p.b1 ++ p.b0) (p.b5 ++ p.b4) (p.b7 ++ p.b6))) ∧
  (∀ u0 u1 u2 u3 e0 e1 w0 w1 : Byte,
    encodesAs (.status (u3 ++ u2 ++ u1 ++ u0) (e1 ++ e0) (w1 ++ w0)) 0x10 8
      fun _ => ⟨u0, u1, u2, u3, e0, e1, w0, w1⟩) ∧
  encodeMessage Config.reference (.status 86400 3 0x0102) 10 =
    ⟨10, 0x10, 8, ⟨0x80, 0x51, 0x01, 0x00, 0x03, 0x00, 0x02, 0x01⟩⟩

/-- R261: TIME_ANNOUNCEMENT; no field is range-checked. -/
def Obligations.TimeAnnouncementMessageLayout : Prop :=
  decodesAs 0x11 8 (fun _ p =>
    .ok (.timeAnnouncement (p.b1 ++ p.b0) p.b2 p.b3 p.b4 p.b5 p.b6 p.b7)) ∧
  (∀ y0 y1 mo d h mi se w : Byte,
    encodesAs (.timeAnnouncement (y1 ++ y0) mo d h mi se w) 0x11 8 fun _ => ⟨y0, y1, mo, d, h, mi, se, w⟩) ∧
  serialize (encodeMessage Config.reference (.timeAnnouncement 2024 3 1 10 15 30 5) 63) =
    [0x21, 0x7C, 0x3F, 0x11, 0x08, 0xE8, 0x07, 0x03, 0x01, 0x0A, 0x0F, 0x1E, 0x05]

/-- R262: INFO. -/
def Obligations.InfoMessageLayout : Prop :=
  decodesAs 0x12 6 (fun _ p => .ok (.info (p.b1 ++ p.b0) (p.b5 ++ p.b4 ++ p.b3 ++ p.b2))) ∧
  (∀ c0 c1 a0 a1 a2 a3 : Byte,
    encodesAs (.info (c1 ++ c0) (a3 ++ a2 ++ a1 ++ a0)) 0x12 6 fun _ => ⟨c0, c1, a0, a1, a2, a3, 0, 0⟩) ∧
  encodeMessage Config.reference (.info 0x0102 0x0A0B0C0D) 2 =
    ⟨2, 0x12, 6, ⟨0x02, 0x01, 0x0D, 0x0C, 0x0B, 0x0A, 0, 0⟩⟩

/-- R263, R264: PONG and PING, one layout. -/
def Obligations.PongAndPingMessageLayouts : Prop :=
  decodesAs 0x1D 2 (fun _ p => .ok (.pong (p.b1 ++ p.b0))) ∧
  decodesAs 0x1E 2 (fun _ p => .ok (.ping (p.b1 ++ p.b0))) ∧
  (∀ b0 b1 : Byte,
    encodesAs (.pong (b1 ++ b0)) 0x1D 2 (fun _ => ⟨b0, b1, 0, 0, 0, 0, 0, 0⟩) ∧
    encodesAs (.ping (b1 ++ b0)) 0x1E 2 (fun _ => ⟨b0, b1, 0, 0, 0, 0, 0, 0⟩)) ∧
  decodeRecord Config.reference ⟨2, 0x1D, 2, ⟨0xEF, 0xBE, 0, 0, 0, 0, 0, 0⟩⟩ = .ok (.pong 0xBEEF) ∧
  serialize (encodeMessage Config.reference (.ping 0x1234) 2) =
    [0x21, 0x7C, 0x02, 0x1E, 0x02, 0x34, 0x12, 0x00, 0x00, 0x00, 0x00, 0x00, 0x00]

/-! ## Laws of the codec -/

/-- R218: a code that is no variant's decodes to UnknownType, whatever the length; there are 19 such codes. -/
def Obligations.UnknownTypesAreNonFatal : Prop :=
  (∀ (s : State) (r : WireRecord), r.wf = true → (∀ m : Message, (messageType m).code ≠ r.msgType) →
    exec (.decode r) s = .next { s with answer := .decoded (.error .unknownType) }) ∧
  (∀ t : TypeCode, (∀ m : Message, (messageType m).code ≠ t) ↔
    t ∈ ([0x00, 0x01, 0x03, 0x06, 0x07, 0x0B, 0x0C, 0x0F, 0x13, 0x14, 0x15, 0x16, 0x17, 0x18, 0x19, 0x1A, 0x1B, 0x1C,
      0x1F] : List TypeCode))

/-- R219: for every known type, every other length is a mismatch. -/
def Obligations.WrongLengthIsAMismatch : Prop :=
  ∀ (s : State) (r : WireRecord) (m : Message), r.wf = true → r.msgType = (messageType m).code →
    r.length ≠ (encodeMessage s.cfg m 0).length →
    exec (.decode r) s = .next { s with answer := .decoded (.error .lengthMismatch) }

/-- R228: the round trip, under injective code maps, and the produced length. -/
def Obligations.DecodeInvertsEncode : Prop :=
  ∀ (c : Config) (m : Message) (a : Byte), c.legal = true →
    decodeRecord c (encodeMessage c m a) = .ok m ∧
    reqLen (messageType m) = some (encodeMessage c m a).length

/-- R229 (the spec's own derivation): the converse round trip. -/
def Obligations.EncodeInvertsDecode : Prop :=
  ∀ (c : Config) (r : WireRecord) (m : Message), r.wf = true → decodeRecord c r = .ok m →
    encodeMessage c m (r.addr.setWidth 8) = r

/-- R227 (the spec's own derivation): what `encode` gives is a well-formed record. -/
def Obligations.EncodeGivesWellFormedRecords : Prop :=
  ∀ (c : Config) (m : Message) (a : Byte), (encodeMessage c m a).wf = true

/-- R223 (the spec's own derivation): `decode` reads neither the address nor the payload at and beyond the length. -/
def Obligations.DecodeIgnoresAddressAndTail : Prop :=
  ∀ (c : Config) (r : WireRecord) (a : DevAddr) (p : Payload),
    (∀ i, i < r.length → p.get i = r.payload.get i) →
    decodeRecord c { r with addr := a, payload := p } = decodeRecord c r

/-- R211: a codec call changes nothing of the machine but the answer on its port. -/
def Obligations.CodecCallsChangeNothing : Prop :=
  ∀ (i : Instr) (s t : State), isCodecCall i = true → exec i s = .next t → t = { s with answer := t.answer }

/-- R240: TO_CAN, by the numbers of the two masked fields. -/
def Obligations.ToCanPacksTheFields : Prop :=
  ∀ (s : State) (a t : Byte), ∃ w : BitVec 16,
    exec (.toCan a t) s = .next { s with answer := .combined w } ∧
    w.toNat = (t.toNat % 32) * 64 + a.toNat % 64 ∧ w.toNat ≤ 2047

/-- R241: SPLIT_CAN takes bits 5:0 and 10:6 and ignores the rest. -/
def Obligations.SplitCanTakesTheFields : Prop :=
  ∀ (s : State) (w : BitVec 16), ∃ (a : DevAddr) (t : TypeCode),
    exec (.splitCan w) s = .next { s with answer := .split a t } ∧
    a.toNat = w.toNat % 64 ∧ t.toNat = (w.toNat / 64) % 32

/-- R242: the two packings are inverse to each other, and order follows the type. -/
def Obligations.CanPackingIsInvertible : Prop :=
  (∀ (a : DevAddr) (t : TypeCode), splitCanAddr (toCanAddr (a.setWidth 8) (t.setWidth 8)) = (a, t)) ∧
  (∀ w : BitVec 16, w.toNat < 2048 →
    toCanAddr ((splitCanAddr w).1.setWidth 8) ((splitCanAddr w).2.setWidth 8) = w) ∧
  (∀ (a : DevAddr) (t u : TypeCode), t.toNat < u.toNat →
    (toCanAddr (a.setWidth 8) (t.setWidth 8)).toNat < (toCanAddr (a.setWidth 8) (u.setWidth 8)).toNat)

/-- R96, R97, R107: each CAN11 row answers the address and its type's code, and changes nothing else (that a row is a
SPLIT_CAN call is the model's choice, log entry 7). -/
def Obligations.CanRowsAnswerTheirFields : Prop :=
  ∀ (s : State) (a : DevAddr),
    exec (.errorCan a) s = .next { s with answer := .split a 0x02 } ∧
    exec (.outputChangedCan a) s = .next { s with answer := .split a 0x04 } ∧
    exec (.inputChangedCan a) s = .next { s with answer := .split a 0x05 } ∧
    exec (.setOutputCan a) s = .next { s with answer := .split a 0x08 } ∧
    exec (.triggerInputCan a) s = .next { s with answer := .split a 0x09 } ∧
    exec (.callProcedureCan a) s = .next { s with answer := .split a 0x0A } ∧
    exec (.shutterCommandCan a) s = .next { s with answer := .split a 0x0B } ∧
    exec (.requestStatusCan a) s = .next { s with answer := .split a 0x0D } ∧
    exec (.statusIoCan a) s = .next { s with answer := .split a 0x0E } ∧
    exec (.statusCan a) s = .next { s with answer := .split a 0x10 } ∧
    exec (.timeAnnouncementCan a) s = .next { s with answer := .split a 0x11 } ∧
    exec (.infoCan a) s = .next { s with answer := .split a 0x12 } ∧
    exec (.pongCan a) s = .next { s with answer := .split a 0x1D } ∧
    exec (.pingCan a) s = .next { s with answer := .split a 0x1E }

/-! ## The whole machine -/

/-- Every step of the machine keeps the block's invariant (R21, R27, R28, R182, R32, R351, R352, R190). -/
def Obligations.StepKeepsTheBlockInvariant : Prop :=
  ∀ s t : State, BlockInv s → step s = .next t → BlockInv t

/-- The invariant holds after reset, under every legal choice of the parameters. -/
def Obligations.ResetMeetsTheBlockInvariant : Prop :=
  ∀ c : Config, c.legal = true → BlockInv (State.resetWith c)

/-- Every FRAME13 row puts its frame into the ingress latch while ING reads, and answers the record's `decode` (the answer
is the model's choice, log entry 4). -/
def Obligations.FrameRowsAreReceived : Prop :=
  receivesAs .error 0x02 ∧ receivesAs .outputChanged 0x04 ∧ receivesAs .inputChanged 0x05 ∧
  receivesAs .setOutput 0x08 ∧ receivesAs .triggerInput 0x09 ∧ receivesAs .callProcedure 0x0A ∧
  receivesAs .shutterCommand 0x0B ∧ receivesAs .requestStatus 0x0D ∧ receivesAs .statusIo 0x0E ∧
  receivesAs .status 0x10 ∧ receivesAs .timeAnnouncement 0x11 ∧ receivesAs .info 0x12 ∧
  receivesAs .pong 0x1D ∧ receivesAs .ping 0x1E

/-- A FRAME13 row is ING.READ of a chunk that holds its frame, but for the codec's answer (log entry 4; R132, R138). -/
def Obligations.FrameRowAgreesWithIngRead : Prop :=
  ∀ (s : State) (c : List Byte) (i : Instr), (ReadResult.chunk c).wf s.cfg = true → decode (.rx (.chunk c)) = .ok i →
    ∃ rec, frameChunk c = .ok rec ∧
      (reading s = true →
        exec (.ingRead (.chunk c)) s = .next { s with ing := .push rec, answer := .none } ∧
        exec i s = .next { s with ing := .push rec, answer := .decoded (decodeRecord s.cfg rec) }) ∧
      (reading s = false →
        exec (.ingRead (.chunk c)) s = .next { s with answer := .suspended } ∧
        exec i s = .next { s with answer := .suspended })

/-- R33, R331: LOG is append-only but for RESET, each step adds at most one entry, and no step reads it. -/
def Obligations.LogIsAppendedAndNeverRead : Prop :=
  ∀ (i : Instr) (s t : State) (l : List LogEvent), i ≠ .reset → exec i s = .next t →
    ∃ k : List LogEvent, k.length ≤ 1 ∧ t.log = s.log ++ k ∧
      exec i { s with log := l } = .next { t with log := l ++ k }

/-- R31: who clears each FIFO flag, and that a cleared flag is never set again except by reset. -/
def Obligations.FifoEndsHaveOwners : Prop :=
  ∀ (i : Instr) (s t : State), i ≠ .reset → exec i s = .next t →
    (t.ingq.txOpen ≠ s.ingq.txOpen → i = .supHalt ∧ t.ingq.txOpen = false) ∧
    (t.ingq.rxOpen ≠ s.ingq.rxOpen → i = .ingRxClose ∧ t.ingq.rxOpen = false) ∧
    (t.egrq.txOpen ≠ s.egrq.txOpen → i = .egrTxClose ∧ t.egrq.txOpen = false) ∧
    (t.egrq.rxOpen ≠ s.egrq.rxOpen → i = .supHalt ∧ t.egrq.rxOpen = false)

/-- R75, R363, R341: a step of ING neither writes nor reads EGR's phase, EGRQ and TX, a step of EGR neither writes nor reads
ING's phase and INGQ, and neither writes the halt state, the result, the parameters or the schedule. What both may write is
`first_err` and LOG (R331). -/
def Obligations.EachFlowIgnoresTheOther : Prop :=
  ∀ (i : Instr) (s t : State), exec i s = .next t →
    (isIngStep i = true →
      (t.egr = s.egr ∧ t.egrq = s.egrq ∧ t.tx = s.tx) ∧
      ∀ (e : EgrPhase) (q : Fifo) (x : List TxFrame),
        exec i { s with egr := e, egrq := q, tx := x } = .next { t with egr := e, egrq := q, tx := x }) ∧
    (isEgrStep i = true →
      (t.ing = s.ing ∧ t.ingq = s.ingq) ∧
      ∀ (p : IngPhase) (q : Fifo), exec i { s with ing := p, ingq := q } = .next { t with ing := p, ingq := q }) ∧
    ((isIngStep i || isEgrStep i) = true →
      t.halted = s.halted ∧ t.result = s.result ∧ t.cfg = s.cfg ∧ t.schedule = s.schedule)

/-- R185, R193: a producer suspended on a full EGRQ is released by the next pop, a consumer suspended on an empty INGQ by
the next push. -/
def Obligations.SuspendedPeersAreReleased : Prop :=
  (∀ (s : State) (rec : WireRecord), rec.wf = true → s.halted = false → s.egr = .recv → 1 ≤ s.cfg.egrCap →
    s.egrq.txOpen = true → s.egrq.rxOpen = true → s.egrq.buf.length = s.cfg.egrCap →
    exec (.egrPush rec) s = .next { s with answer := .suspended } ∧
    ∃ t u, exec .egrRecv s = .next t ∧ exec (.egrPush rec) t = .next u ∧ u.answer = .pushed ∧
      u.egrq.buf = s.egrq.buf.tail ++ [rec]) ∧
  (∀ (s : State) (rec : WireRecord), s.halted = false → s.ing = .push rec → 1 ≤ s.cfg.ingCap →
    s.ingq.rxOpen = true → s.ingq.txOpen = true → s.ingq.buf = [] →
    exec .ingPop s = .next { s with answer := .suspended } ∧
    ∃ t u, exec .ingPush s = .next t ∧ exec .ingPop t = .next u ∧ u.answer = .popped rec ∧ u.ingq.buf = [])

/-- R144, R188, R190: a push that was suspended on a full FIFO fails as soon as the receiving end closes: ING.PUSH fatally
after ING_RXCLOSE, EGR_PUSH with Err(Closed) after the halt. -/
def Obligations.SuspendedPushFailsOnClose : Prop :=
  (∀ (s : State) (rec : WireRecord), s.halted = false → s.ing = .push rec → s.ingq.rxOpen = true →
    s.cfg.ingCap ≤ s.ingq.buf.length →
    exec .ingPush s = .next { s with answer := .suspended } ∧
    ∃ t u, exec .ingRxClose s = .next t ∧ exec .ingPush t = .next u ∧
      u.ing = .done .ingressReceiverClosed ∧ u.ingq = ⟨[], s.ingq.txOpen, false⟩) ∧
  (∀ (s : State) (rec : WireRecord), rec.wf = true → s.halted = false → (ingDone s = true ∨ egrDone s = true) →
    s.egrq.txOpen = true → s.egrq.rxOpen = true → s.cfg.egrCap ≤ s.egrq.buf.length →
    exec (.egrPush rec) s = .next { s with answer := .suspended } ∧
    ∃ t, exec .supHalt s = .next t ∧ exec (.egrPush rec) t = .next { t with answer := .closed } ∧ t.egrq.buf = [])

/-- R187, R191: once the block's sending end of INGQ is gone, `k` pops answer the first `k` buffered records in order, and a
pop beyond the last answers None. -/
def Obligations.QueuedRecordsSurviveTheHalt : Prop :=
  ∀ (k : Nat) (s : State), s.ingq.rxOpen = true → s.ingq.txOpen = false →
    s.schedule = List.replicate k (.op .ingPop) →
    ∃ t, stepsFrom k s = .next t ∧ along poppedBy k s = s.ingq.buf.take k ∧ t.ingq.buf = s.ingq.buf.drop k ∧
      (s.ingq.buf.length < k → t.answer = .drained)

/-- R72 (egress), R181: over any run without RESET and SUP.HALT, the records held at the start and accepted in the run are,
in this order, those whose frames were presented on TX and those still in the WRITE latch and EGRQ. A frame whose write
failed counts as presented (R163), and what is held after it is never presented (R164). -/
def Obligations.EgressOrderIsEndToEnd : Prop :=
  ∀ (k : Nat) (s t : State), (∀ x ∈ s.schedule, x ≠ .op .reset ∧ x ≠ .op .supHalt) → stepsFrom k s = .next t →
    ∃ sent : List WireRecord,
      egressPipe s ++ along acceptedBy k s = sent ++ egressPipe t ∧
      t.tx.map (·.bytes) = s.tx.map (·.bytes) ++ sent.map serialize

/-- R72 (ingress), R181: over any run without RESET and ING_RXCLOSE, the records held at the start and framed in the run are,
in this order, those APPC popped and those still in INGQ and the PUSH latch. After a halt INGQ's records alone are still
delivered (R187): a record in the PUSH latch is lost (R354, R395) and only counted here, as held. -/
def Obligations.IngressOrderIsEndToEnd : Prop :=
  ∀ (k : Nat) (s t : State), (∀ x ∈ s.schedule, x ≠ .op .reset ∧ x ≠ .op .ingRxClose) → s.ingq.rxOpen = true →
    stepsFrom k s = .next t →
    ingressPipe s ++ along framedBy k s = along poppedBy k s ++ ingressPipe t
end

