-- ==== Sys2Proof/Laws/Encoding.lean ====
section
/-! SUPPORT. The type-code table (R97) read in both directions, and the small facts of the record invariant (R21). -/

namespace Sys2Proof

/-- A named type's code leads back to it. -/
@[simp] theorem msgTypeOfCode_code (t : MsgType) : msgTypeOfCode t.code = some t := by
  cases t <;> rfl

/-- A code leads only to the type that has it. -/
theorem msgTypeOfCode_some {c : TypeCode} {t : MsgType} (h : msgTypeOfCode c = some t) : t.code = c := by
  have := List.find?_some h
  simpa using this

/-- Codes are injective (R215). -/
theorem MsgType.code_injective {t u : MsgType} (h : t.code = u.code) : t = u := by
  have := msgTypeOfCode_code t
  rw [h, msgTypeOfCode_code] at this
  exact (Option.some.inj this).symm

/-- The operands of a frame are well-formed exactly when its record is. -/
theorem frameWf_eq (a : DevAddr) (t : TypeCode) (n : Nat) (p : Payload) :
    frameWf n p = WireRecord.wf ⟨a, t, n, p⟩ := rfl

@[simp] theorem Payload.length_toList (p : Payload) : p.toList.length = 8 := rfl

/-- The frame of a record has 13 bytes (R162). -/
@[simp] theorem length_serialize (r : WireRecord) : (serialize r).length = 13 := rfl

/-- R94 and R162 agree: the frame an encoder writes is the serializer's. -/
theorem encodeFrame_eq (t : MsgType) (a : DevAddr) (n : Nat) (p : Payload) :
    encodeFrame t a n p = .rx (.chunk (serialize ⟨a, t.code, n, p⟩)) := rfl

end Sys2Proof
end

