-- ==== Sys2Proof/Laws/State.lean ====
section
/-! SUPPORT. One lemma per field per state update, all simp lemmas, so that no proof unfolds a record update. -/

namespace Sys2Proof.Machine

open Sys2Proof

/-! `answering` -/

@[simp] theorem answering_cfg (a : Answer) (s : State) : (answering a s).cfg = s.cfg := rfl
@[simp] theorem answering_ing (a : Answer) (s : State) : (answering a s).ing = s.ing := rfl
@[simp] theorem answering_egr (a : Answer) (s : State) : (answering a s).egr = s.egr := rfl
@[simp] theorem answering_ingq (a : Answer) (s : State) : (answering a s).ingq = s.ingq := rfl
@[simp] theorem answering_egrq (a : Answer) (s : State) : (answering a s).egrq = s.egrq := rfl
@[simp] theorem answering_halted (a : Answer) (s : State) : (answering a s).halted = s.halted := rfl
@[simp] theorem answering_firstErr (a : Answer) (s : State) : (answering a s).firstErr = s.firstErr := rfl
@[simp] theorem answering_result (a : Answer) (s : State) : (answering a s).result = s.result := rfl
@[simp] theorem answering_log (a : Answer) (s : State) : (answering a s).log = s.log := rfl
@[simp] theorem answering_tx (a : Answer) (s : State) : (answering a s).tx = s.tx := rfl
@[simp] theorem answering_answer (a : Answer) (s : State) : (answering a s).answer = a := rfl
@[simp] theorem answering_schedule (a : Answer) (s : State) : (answering a s).schedule = s.schedule := rfl

/-! `raise` (R331) -/

@[simp] theorem raise_cfg (e : Event) (i : Info) (s : State) : (raise e i s).cfg = s.cfg := rfl
@[simp] theorem raise_ing (e : Event) (i : Info) (s : State) : (raise e i s).ing = s.ing := rfl
@[simp] theorem raise_egr (e : Event) (i : Info) (s : State) : (raise e i s).egr = s.egr := rfl
@[simp] theorem raise_ingq (e : Event) (i : Info) (s : State) : (raise e i s).ingq = s.ingq := rfl
@[simp] theorem raise_egrq (e : Event) (i : Info) (s : State) : (raise e i s).egrq = s.egrq := rfl
@[simp] theorem raise_halted (e : Event) (i : Info) (s : State) : (raise e i s).halted = s.halted := rfl
@[simp] theorem raise_firstErr (e : Event) (i : Info) (s : State) : (raise e i s).firstErr = s.firstErr := rfl
@[simp] theorem raise_result (e : Event) (i : Info) (s : State) : (raise e i s).result = s.result := rfl
@[simp] theorem raise_log (e : Event) (i : Info) (s : State) : (raise e i s).log = s.log ++ [⟨e, i⟩] := rfl
@[simp] theorem raise_tx (e : Event) (i : Info) (s : State) : (raise e i s).tx = s.tx := rfl
@[simp] theorem raise_answer (e : Event) (i : Info) (s : State) : (raise e i s).answer = s.answer := rfl
@[simp] theorem raise_schedule (e : Event) (i : Info) (s : State) : (raise e i s).schedule = s.schedule := rfl

/-! `latch` (R138) -/

@[simp] theorem latch_cfg (r : WireRecord) (a : Answer) (s : State) : (latch r a s).cfg = s.cfg := rfl
@[simp] theorem latch_ing (r : WireRecord) (a : Answer) (s : State) : (latch r a s).ing = .push r := rfl
@[simp] theorem latch_egr (r : WireRecord) (a : Answer) (s : State) : (latch r a s).egr = s.egr := rfl
@[simp] theorem latch_ingq (r : WireRecord) (a : Answer) (s : State) : (latch r a s).ingq = s.ingq := rfl
@[simp] theorem latch_egrq (r : WireRecord) (a : Answer) (s : State) : (latch r a s).egrq = s.egrq := rfl
@[simp] theorem latch_halted (r : WireRecord) (a : Answer) (s : State) : (latch r a s).halted = s.halted := rfl
@[simp] theorem latch_firstErr (r : WireRecord) (a : Answer) (s : State) : (latch r a s).firstErr = s.firstErr := rfl
@[simp] theorem latch_result (r : WireRecord) (a : Answer) (s : State) : (latch r a s).result = s.result := rfl
@[simp] theorem latch_log (r : WireRecord) (a : Answer) (s : State) : (latch r a s).log = s.log := rfl
@[simp] theorem latch_tx (r : WireRecord) (a : Answer) (s : State) : (latch r a s).tx = s.tx := rfl
@[simp] theorem latch_answer (r : WireRecord) (a : Answer) (s : State) : (latch r a s).answer = a := rfl
@[simp] theorem latch_schedule (r : WireRecord) (a : Answer) (s : State) : (latch r a s).schedule = s.schedule := rfl

/-! `present` (R163) -/

@[simp] theorem present_cfg (r : WireRecord) (w : WriteResult) (s : State) : (present r w s).cfg = s.cfg := rfl
@[simp] theorem present_ing (r : WireRecord) (w : WriteResult) (s : State) : (present r w s).ing = s.ing := rfl
@[simp] theorem present_egr (r : WireRecord) (w : WriteResult) (s : State) : (present r w s).egr = s.egr := rfl
@[simp] theorem present_ingq (r : WireRecord) (w : WriteResult) (s : State) : (present r w s).ingq = s.ingq := rfl
@[simp] theorem present_egrq (r : WireRecord) (w : WriteResult) (s : State) : (present r w s).egrq = s.egrq := rfl
@[simp] theorem present_halted (r : WireRecord) (w : WriteResult) (s : State) : (present r w s).halted = s.halted := rfl
@[simp] theorem present_firstErr (r : WireRecord) (w : WriteResult) (s : State) : (present r w s).firstErr = s.firstErr := rfl
@[simp] theorem present_result (r : WireRecord) (w : WriteResult) (s : State) : (present r w s).result = s.result := rfl
@[simp] theorem present_log (r : WireRecord) (w : WriteResult) (s : State) : (present r w s).log = s.log := rfl
@[simp] theorem present_tx (r : WireRecord) (w : WriteResult) (s : State) : (present r w s).tx = s.tx ++ [⟨serialize r, w⟩] := rfl
@[simp] theorem present_answer (r : WireRecord) (w : WriteResult) (s : State) : (present r w s).answer = s.answer := rfl
@[simp] theorem present_schedule (r : WireRecord) (w : WriteResult) (s : State) : (present r w s).schedule = s.schedule := rfl

/-! `endFlow` (R331): every field but the two phases -/

@[simp] theorem endFlow_cfg (f : FlowErr) (s : State) : (endFlow f s).cfg = s.cfg := by cases f <;> rfl
@[simp] theorem endFlow_ingq (f : FlowErr) (s : State) : (endFlow f s).ingq = s.ingq := by cases f <;> rfl
@[simp] theorem endFlow_egrq (f : FlowErr) (s : State) : (endFlow f s).egrq = s.egrq := by cases f <;> rfl
@[simp] theorem endFlow_halted (f : FlowErr) (s : State) : (endFlow f s).halted = s.halted := by cases f <;> rfl
@[simp] theorem endFlow_firstErr (f : FlowErr) (s : State) : (endFlow f s).firstErr = s.firstErr.or (some f) := by cases f <;> rfl
@[simp] theorem endFlow_result (f : FlowErr) (s : State) : (endFlow f s).result = s.result := by cases f <;> rfl
@[simp] theorem endFlow_log (f : FlowErr) (s : State) : (endFlow f s).log = s.log ++ [⟨flowEvent f, .none⟩] := by cases f <;> rfl
@[simp] theorem endFlow_tx (f : FlowErr) (s : State) : (endFlow f s).tx = s.tx := by cases f <;> rfl
@[simp] theorem endFlow_answer (f : FlowErr) (s : State) : (endFlow f s).answer = s.answer := by cases f <;> rfl
@[simp] theorem endFlow_schedule (f : FlowErr) (s : State) : (endFlow f s).schedule = s.schedule := by cases f <;> rfl

@[simp] theorem endFlow_peerDisconnected_ing (s : State) :
    (endFlow .peerDisconnected s).ing = .done .peerDisconnected := rfl
@[simp] theorem endFlow_peerDisconnected_egr (s : State) : (endFlow .peerDisconnected s).egr = s.egr := rfl
@[simp] theorem endFlow_ingressReceiverClosed_ing (s : State) :
    (endFlow .ingressReceiverClosed s).ing = .done .ingressReceiverClosed := rfl
@[simp] theorem endFlow_ingressReceiverClosed_egr (s : State) : (endFlow .ingressReceiverClosed s).egr = s.egr := rfl
@[simp] theorem endFlow_writeFailed_ing (s : State) : (endFlow .writeFailed s).ing = s.ing := rfl
@[simp] theorem endFlow_writeFailed_egr (s : State) : (endFlow .writeFailed s).egr = .done (.err .writeFailed) := rfl

/-! `resetBlock` (R380) -/

@[simp] theorem resetBlock_cfg  (s : State) : (resetBlock s).cfg = s.cfg := rfl
@[simp] theorem resetBlock_ing  (s : State) : (resetBlock s).ing = .read := rfl
@[simp] theorem resetBlock_egr  (s : State) : (resetBlock s).egr = .recv := rfl
@[simp] theorem resetBlock_ingq  (s : State) : (resetBlock s).ingq = ⟨[], true, true⟩ := rfl
@[simp] theorem resetBlock_egrq  (s : State) : (resetBlock s).egrq = ⟨[], true, true⟩ := rfl
@[simp] theorem resetBlock_halted  (s : State) : (resetBlock s).halted = false := rfl
@[simp] theorem resetBlock_firstErr  (s : State) : (resetBlock s).firstErr = none := rfl
@[simp] theorem resetBlock_result  (s : State) : (resetBlock s).result = none := rfl
@[simp] theorem resetBlock_log  (s : State) : (resetBlock s).log = [] := rfl
@[simp] theorem resetBlock_tx  (s : State) : (resetBlock s).tx = s.tx := rfl
@[simp] theorem resetBlock_answer  (s : State) : (resetBlock s).answer = .none := rfl
@[simp] theorem resetBlock_schedule  (s : State) : (resetBlock s).schedule = s.schedule := rfl

/-! The FIFO operations (R181, R189, R190) -/

@[simp] theorem Fifo.push_buf (r : WireRecord) (q : Fifo) : (q.push r).buf = q.buf ++ [r] := rfl
@[simp] theorem Fifo.push_txOpen (r : WireRecord) (q : Fifo) : (q.push r).txOpen = q.txOpen := rfl
@[simp] theorem Fifo.push_rxOpen (r : WireRecord) (q : Fifo) : (q.push r).rxOpen = q.rxOpen := rfl
@[simp] theorem Fifo.pop_buf (q : Fifo) : (q.pop).buf = q.buf.tail := rfl
@[simp] theorem Fifo.pop_txOpen (q : Fifo) : (q.pop).txOpen = q.txOpen := rfl
@[simp] theorem Fifo.pop_rxOpen (q : Fifo) : (q.pop).rxOpen = q.rxOpen := rfl
@[simp] theorem Fifo.dropSender_buf (q : Fifo) : (q.dropSender).buf = q.buf := rfl
@[simp] theorem Fifo.dropSender_txOpen (q : Fifo) : (q.dropSender).txOpen = false := rfl
@[simp] theorem Fifo.dropSender_rxOpen (q : Fifo) : (q.dropSender).rxOpen = q.rxOpen := rfl
@[simp] theorem Fifo.dropReceiver_buf (q : Fifo) : (q.dropReceiver).buf = [] := rfl
@[simp] theorem Fifo.dropReceiver_txOpen (q : Fifo) : (q.dropReceiver).txOpen = q.txOpen := rfl
@[simp] theorem Fifo.dropReceiver_rxOpen (q : Fifo) : (q.dropReceiver).rxOpen = false := rfl

/-! `withFetchWord` -/

@[simp] theorem State.withFetchWord_schedule (s : State) (n w : Nat) :
    (s.withFetchWord n w).schedule = tableTransaction n w :: s.schedule := rfl
@[simp] theorem State.withFetchWord_answer (s : State) (n w : Nat) : (s.withFetchWord n w).answer = s.answer := rfl

end Sys2Proof.Machine
end

