-- ==== Sys2Proof/Laws/Ops.lean ====
section
/-! SUPPORT. For each shared operation and each meaning of the block, one lemma that says everything it can do when it
answers a next state. Proofs cite these and do not unfold the operation. -/

namespace Sys2Proof.Machine

open Sys2Proof

theorem suspend_next {s t : State} (h : suspend s = .next t) : t = answering .suspended s := by
  injection h with h
  exact h.symm

theorem suspend_eq (s : State) : suspend s = .next { s with answer := .suspended } := rfl

/-- Reception of a frame: latched, or waiting. -/
theorem receiveFrame_next {rec : WireRecord} {d : Decoded} {s t : State} (h : receiveFrame rec d s = .next t) :
    (s.halted = false ∧ s.ing = .read ∧ rec.wf = true ∧ t = latch rec (.decoded d) s) ∨ t = answering .suspended s := by
  unfold receiveFrame at h
  split at h
  · next hh hi =>
    split at h
    · next hw =>
      injection h with h
      exact .inl ⟨hh, hi, hw, h.symm⟩
    · cases h
  · exact .inr (suspend_next h)

/-- A framed or discarded chunk. -/
theorem readChunk_next {c : List Byte} {s t : State} (h : readChunk c s = .next t) :
    (∃ e, frameChunk c = .error e ∧ t = answering .none (raise (frameEvent e) (.chunkLength c.length) s)) ∨
    (∃ rec, frameChunk c = .ok rec ∧ t = latch rec .none s) := by
  unfold readChunk at h
  split at h
  · cases h
  · split at h
    · cases h
    · split at h
      · next e he =>
        injection h with h
        exact .inl ⟨e, he, h.symm⟩
      · next rec hr =>
        injection h with h
        exact .inr ⟨rec, hr, h.symm⟩

/-- Everything ING.READ can do (R132). -/
theorem execIngRead_next {r : ReadResult} {s t : State} (h : execIngRead r s = .next t) :
    (s.halted = false ∧ s.ing = .read ∧
      ((r = .zero ∧ t = answering .none (endFlow .peerDisconnected s)) ∨
       (r = .ioError ∧ t = answering .none (raise .readIo .none s)) ∨
       (∃ c e, r = .chunk c ∧ frameChunk c = .error e ∧
          t = answering .none (raise (frameEvent e) (.chunkLength c.length) s)) ∨
       (∃ c rec, r = .chunk c ∧ frameChunk c = .ok rec ∧ t = latch rec .none s))) ∨
    t = answering .suspended s := by
  unfold execIngRead at h
  split at h
  · next hh hi =>
    refine .inl ⟨hh, hi, ?_⟩
    split at h
    · injection h with h
      exact .inl ⟨rfl, h.symm⟩
    · injection h with h
      exact .inr (.inl ⟨rfl, h.symm⟩)
    · next c =>
      obtain ⟨e, he, ht⟩ | ⟨rec, hr, ht⟩ := readChunk_next h
      · exact .inr (.inr (.inl ⟨c, e, rfl, he, ht⟩))
      · exact .inr (.inr (.inr ⟨c, rec, rfl, hr, ht⟩))
  · exact .inr (suspend_next h)

/-- Everything ING.PUSH can do (R142). -/
theorem execIngPush_next {s t : State} (h : execIngPush s = .next t) :
    (∃ rec, s.halted = false ∧ s.ing = .push rec ∧
      ((s.ingq.rxOpen = false ∧ t = answering .none (endFlow .ingressReceiverClosed s)) ∨
       (s.ingq.rxOpen = true ∧ s.ingq.buf.length < s.cfg.ingCap ∧
          t = { s with ingq := s.ingq.push rec, ing := .read, answer := .none }))) ∨
    t = answering .suspended s := by
  unfold execIngPush at h
  split at h
  · next rec hh hi =>
    split at h
    · next ho =>
      injection h with h
      exact .inl ⟨rec, hh, hi, .inl ⟨ho, h.symm⟩⟩
    · next ho =>
      split at h
      · next hr =>
        injection h with h
        exact .inl ⟨rec, hh, hi, .inr ⟨by simpa using ho, by simpa [ingqHasRoom] using hr, h.symm⟩⟩
      · exact .inr (suspend_next h)
  · exact .inr (suspend_next h)

/-- Everything EGR.RECV can do (R161). -/
theorem execEgrRecv_next {s t : State} (h : execEgrRecv s = .next t) :
    (s.halted = false ∧ s.egr = .recv ∧
      ((∃ rec rest, s.egrq.buf = rec :: rest ∧
          t = { s with egrq := s.egrq.pop, egr := .write rec, answer := .none }) ∨
       (s.egrq.buf = [] ∧ s.egrq.txOpen = false ∧ t = { s with egr := .done .ok, answer := .none }))) ∨
    t = answering .suspended s := by
  unfold execEgrRecv at h
  split at h
  · next hh he =>
    split at h
    · next rec rest hb =>
      injection h with h
      exact .inl ⟨hh, he, .inl ⟨rec, rest, hb, h.symm⟩⟩
    · next hb =>
      split at h
      · next ho =>
        injection h with h
        exact .inl ⟨hh, he, .inr ⟨hb, ho, h.symm⟩⟩
      · exact .inr (suspend_next h)
  · exact .inr (suspend_next h)

/-- Everything EGR.WRITE can do (R163). -/
theorem execEgrWrite_next {w : WriteResult} {s t : State} (h : execEgrWrite w s = .next t) :
    (∃ rec, s.halted = false ∧ s.egr = .write rec ∧
      ((w = .writeOk ∧ t = { present rec w s with egr := .recv, answer := .none }) ∨
       (w = .writeError ∧ t = answering .none (endFlow .writeFailed (present rec w s))))) ∨
    t = answering .suspended s := by
  unfold execEgrWrite at h
  split at h
  · next rec hh he =>
    split at h
    · injection h with h
      exact .inl ⟨rec, hh, he, .inl ⟨rfl, h.symm⟩⟩
    · injection h with h
      exact .inl ⟨rec, hh, he, .inr ⟨rfl, h.symm⟩⟩
  · exact .inr (suspend_next h)

/-- Everything EGR_PUSH can do (R184). -/
theorem execEgrPush_next {rec : WireRecord} {s t : State} (h : execEgrPush rec s = .next t) :
    (s.egrq.txOpen = true ∧ rec.wf = true ∧
      ((s.egrq.rxOpen = false ∧ t = answering .closed s) ∨
       (s.egrq.rxOpen = true ∧ s.egrq.buf.length < s.cfg.egrCap ∧
          t = { s with egrq := s.egrq.push rec, answer := .pushed }))) ∨
    t = answering .suspended s := by
  unfold execEgrPush at h
  split at h
  · next hg =>
    split at h
    · next hw =>
      refine .inl ⟨hg.1, hw, ?_⟩
      split at h
      · next ho =>
        injection h with h
        exact .inl ⟨ho, h.symm⟩
      · next ho =>
        injection h with h
        have hr := hg.2.resolve_left ho
        exact .inr ⟨by simpa using ho, by simpa [egrqHasRoom] using hr, h.symm⟩
    · cases h
  · exact .inr (suspend_next h)

/-- Everything ING_POP can do (R186). -/
theorem execIngPop_next {s t : State} (h : execIngPop s = .next t) :
    (s.ingq.rxOpen = true ∧
      ((∃ rec rest, s.ingq.buf = rec :: rest ∧ t = { s with ingq := s.ingq.pop, answer := .popped rec }) ∨
       (s.ingq.buf = [] ∧ s.ingq.txOpen = false ∧ t = answering .drained s))) ∨
    t = answering .suspended s := by
  unfold execIngPop at h
  split at h
  · next ho =>
    split at h
    · next rec rest hb =>
      injection h with h
      exact .inl ⟨ho, .inl ⟨rec, rest, hb, h.symm⟩⟩
    · next hb =>
      split at h
      · next hx =>
        injection h with h
        exact .inl ⟨ho, .inr ⟨hb, hx, h.symm⟩⟩
      · exact .inr (suspend_next h)
  · exact .inr (suspend_next h)

/-- Everything EGR_TXCLOSE can do (R189). -/
theorem execEgrTxClose_next {s t : State} (h : execEgrTxClose s = .next t) :
    (s.egrq.txOpen = true ∧ t = { s with egrq := s.egrq.dropSender, answer := .none }) ∨ t = answering .suspended s := by
  unfold execEgrTxClose at h
  split at h
  · next ho =>
    injection h with h
    exact .inl ⟨ho, h.symm⟩
  · exact .inr (suspend_next h)

/-- Everything ING_RXCLOSE can do (R190). -/
theorem execIngRxClose_next {s t : State} (h : execIngRxClose s = .next t) :
    (s.ingq.rxOpen = true ∧ t = { s with ingq := s.ingq.dropReceiver, answer := .none }) ∨
      t = answering .suspended s := by
  unfold execIngRxClose at h
  split at h
  · next ho =>
    injection h with h
    exact .inl ⟨ho, h.symm⟩
  · exact .inr (suspend_next h)

/-- Everything SUP.HALT can do (R352). -/
theorem execSupHalt_next {s t : State} (h : execSupHalt s = .next t) :
    (s.halted = false ∧ (ingDone s = true ∨ egrDone s = true) ∧
      t = answering (.done (blockResult s)) (raise .halt (.result (blockResult s))
        { s with
          result := some (blockResult s)
          halted := true
          ingq := s.ingq.dropSender
          egrq := s.egrq.dropReceiver })) ∨
    t = answering .suspended s := by
  unfold execSupHalt at h
  split at h
  · next hg =>
    injection h with h
    exact .inl ⟨hg.1, by simpa using hg.2, h.symm⟩
  · exact .inr (suspend_next h)

/-- A codec call answers and changes nothing else (R211). -/
theorem receiveCan_next {m : MsgType} {a : DevAddr} {s t : State} (h : receiveCan m a s = .next t) :
    ∃ x, t = answering x s := by
  injection h with h
  exact ⟨_, h.symm⟩

theorem execDecode_next {r : WireRecord} {s t : State} (h : execDecode r s = .next t) :
    r.wf = true ∧ t = answering (.decoded (decodeRecord s.cfg r)) s := by
  unfold execDecode at h
  split at h
  · next hw =>
    injection h with h
    exact ⟨hw, h.symm⟩
  · cases h

/-- What `settleStep` makes of an outcome. -/
theorem settleStep_next {x : Transaction} {o : Result} {t : State} (h : settleStep x o = .next t) :
    ∃ u, o = .next u ∧ t = requeue x u := by
  cases o with
  | next u =>
    injection h with h
    exact ⟨u, rfl, h.symm⟩
  | fault f => cases h
  | refused r => cases h

/-- Requeueing changes the schedule alone. -/
theorem requeue_eq (x : Transaction) (u : State) :
    requeue x u = { u with schedule := if u.answer = .suspended then u.schedule ++ [x] else u.schedule } := by
  unfold requeue
  split <;> rfl

end Sys2Proof.Machine
end

