-- ==== Sys2Proof/Laws/Exec.lean ====
section
/-! SUPPORT. What one execution can do, said once for all 42 instructions: `Move i s t` lists every way in which `exec i`
can take `s` to `t`. Frames and invariants follow by cases on it. -/

namespace Sys2Proof.Machine

open Sys2Proof

/-- The ways in which `exec i s` can answer a next state. -/
inductive Move (i : Instr) (s : State) : State → Prop where
  /-- The guard fails (R16). -/
  | waits : Move i s (answering .suspended s)
  /-- A frame enters the ingress latch (R138). -/
  | latches (rec : WireRecord) (a : Answer) (agent : isIngStep i = true) (live : s.halted = false)
      (reads : s.ing = .read) (legal : rec.wf = true ∨ ∃ c, frameChunk c = .ok rec) : Move i s (latch rec a s)
  /-- A chunk is discarded (R147). -/
  | discards (c : List Byte) (e : FrameError) (instr : i = .ingRead (.chunk c)) (live : s.halted = false)
      (reads : s.ing = .read) (bad : frameChunk c = .error e) :
      Move i s (answering .none (raise (frameEvent e) (.chunkLength c.length) s))
  /-- A read fails (R139). -/
  | readFails (instr : i = .ingRead .ioError) (live : s.halted = false) (reads : s.ing = .read) :
      Move i s (answering .none (raise .readIo .none s))
  /-- The peer is gone (R133). -/
  | peerGone (instr : i = .ingRead .zero) (live : s.halted = false) (reads : s.ing = .read) :
      Move i s (answering .none (endFlow .peerDisconnected s))
  /-- The latched record enters INGQ (R143). -/
  | queues (rec : WireRecord) (instr : i = .ingPush) (live : s.halted = false) (held : s.ing = .push rec)
      (open_ : s.ingq.rxOpen = true) (room : s.ingq.buf.length < s.cfg.ingCap) :
      Move i s { s with ingq := s.ingq.push rec, ing := .read, answer := .none }
  /-- INGQ's receiver is gone (R144). -/
  | receiverGone (rec : WireRecord) (instr : i = .ingPush) (live : s.halted = false) (held : s.ing = .push rec)
      (shut : s.ingq.rxOpen = false) : Move i s (answering .none (endFlow .ingressReceiverClosed s))
  /-- EGR takes the oldest record (R165). -/
  | takes (rec : WireRecord) (rest : List WireRecord) (instr : i = .egrRecv) (live : s.halted = false)
      (waiting : s.egr = .recv) (buf : s.egrq.buf = rec :: rest) :
      Move i s { s with egrq := s.egrq.pop, egr := .write rec, answer := .none }
  /-- EGR ends cleanly (R166). -/
  | endsCleanly (instr : i = .egrRecv) (live : s.halted = false) (waiting : s.egr = .recv) (buf : s.egrq.buf = [])
      (shut : s.egrq.txOpen = false) : Move i s { s with egr := .done .ok, answer := .none }
  /-- A frame is written (R163). -/
  | writes (rec : WireRecord) (instr : i = .egrWrite .writeOk) (live : s.halted = false) (held : s.egr = .write rec) :
      Move i s { present rec .writeOk s with egr := .recv, answer := .none }
  /-- A write fails (R164). -/
  | writeFails (rec : WireRecord) (instr : i = .egrWrite .writeError) (live : s.halted = false)
      (held : s.egr = .write rec) : Move i s (answering .none (endFlow .writeFailed (present rec .writeError s)))
  /-- A push is accepted (R184). -/
  | accepts (rec : WireRecord) (instr : i = .egrPush rec) (sender : s.egrq.txOpen = true) (legal : rec.wf = true)
      (open_ : s.egrq.rxOpen = true) (room : s.egrq.buf.length < s.cfg.egrCap) :
      Move i s { s with egrq := s.egrq.push rec, answer := .pushed }
  /-- A push fails on a closed receiver (R188). -/
  | refusesPush (rec : WireRecord) (instr : i = .egrPush rec) (sender : s.egrq.txOpen = true)
      (shut : s.egrq.rxOpen = false) : Move i s (answering .closed s)
  /-- APPC pops (R186). -/
  | pops (rec : WireRecord) (rest : List WireRecord) (instr : i = .ingPop) (open_ : s.ingq.rxOpen = true)
      (buf : s.ingq.buf = rec :: rest) : Move i s { s with ingq := s.ingq.pop, answer := .popped rec }
  /-- APPC learns that the ingress flow has ended (R187). -/
  | drains (instr : i = .ingPop) (open_ : s.ingq.rxOpen = true) (buf : s.ingq.buf = []) (shut : s.ingq.txOpen = false) :
      Move i s (answering .drained s)
  /-- The last sender of EGRQ is dropped (R189). -/
  | senderGone (instr : i = .egrTxClose) (open_ : s.egrq.txOpen = true) :
      Move i s { s with egrq := s.egrq.dropSender, answer := .none }
  /-- INGQ's receiver is dropped (R190). -/
  | consumerGone (instr : i = .ingRxClose) (open_ : s.ingq.rxOpen = true) :
      Move i s { s with ingq := s.ingq.dropReceiver, answer := .none }
  /-- The block halts (R352). -/
  | halts (instr : i = .supHalt) (live : s.halted = false) (ended : ingDone s = true ∨ egrDone s = true) :
      Move i s (answering (.done (blockResult s)) (raise .halt (.result (blockResult s))
        { s with
          result := some (blockResult s)
          halted := true
          ingq := s.ingq.dropSender
          egrq := s.egrq.dropReceiver }))
  /-- The codec answers (R211). -/
  | answers (a : Answer) (codec : isCodecCall i = true) : Move i s (answering a s)
  /-- The block is reset (R380). -/
  | resets (instr : i = .reset) : Move i s (resetBlock s)

theorem receiveFrame_move {i : Instr} {rec : WireRecord} {d : Decoded} {s t : State} (hi : isIngStep i = true)
    (h : receiveFrame rec d s = .next t) : Move i s t := by
  obtain ⟨hl, hr, hw, rfl⟩ | rfl := receiveFrame_next h
  · exact .latches rec _ hi hl hr (.inl hw)
  · exact .waits

theorem receiveCan_move {i : Instr} {m : MsgType} {a : DevAddr} {s t : State} (hi : isCodecCall i = true)
    (h : receiveCan m a s = .next t) : Move i s t := by
  obtain ⟨x, rfl⟩ := receiveCan_next h
  exact .answers x hi

/-- Every next state of `exec` is one of the moves. -/
theorem exec_move {i : Instr} {s t : State} (h : exec i s = .next t) : Move i s t := by
  cases i with
  | error | outputChanged | inputChanged | setOutput | triggerInput | callProcedure | shutterCommand | requestStatus
  | statusIo | status | timeAnnouncement | info | pong | ping => exact receiveFrame_move rfl h
  | errorCan | outputChangedCan | inputChangedCan | setOutputCan | triggerInputCan | callProcedureCan
  | shutterCommandCan | requestStatusCan | statusIoCan | statusCan | timeAnnouncementCan | infoCan | pongCan
  | pingCan => exact receiveCan_move rfl h
  | ingRead r =>
    obtain ⟨hl, hr, ⟨rfl, rfl⟩ | ⟨rfl, rfl⟩ | ⟨c, e, rfl, he, rfl⟩ | ⟨c, rec, rfl, hc, rfl⟩⟩ | rfl :=
      execIngRead_next h
    · exact .peerGone rfl hl hr
    · exact .readFails rfl hl hr
    · exact .discards c e rfl hl hr he
    · exact .latches rec _ rfl hl hr (.inr ⟨c, hc⟩)
    · exact .waits
  | ingPush =>
    obtain ⟨rec, hl, hp, ⟨ho, rfl⟩ | ⟨ho, hr, rfl⟩⟩ | rfl := execIngPush_next h
    · exact .receiverGone rec rfl hl hp ho
    · exact .queues rec rfl hl hp ho hr
    · exact .waits
  | egrRecv =>
    obtain ⟨hl, hw, ⟨rec, rest, hb, rfl⟩ | ⟨hb, ho, rfl⟩⟩ | rfl := execEgrRecv_next h
    · exact .takes rec rest rfl hl hw hb
    · exact .endsCleanly rfl hl hw hb ho
    · exact .waits
  | egrWrite w =>
    obtain ⟨rec, hl, hw, ⟨rfl, rfl⟩ | ⟨rfl, rfl⟩⟩ | rfl := execEgrWrite_next h
    · exact .writes rec rfl hl hw
    · exact .writeFails rec rfl hl hw
    · exact .waits
  | egrPush rec =>
    obtain ⟨hs, hw, ⟨ho, rfl⟩ | ⟨ho, hr, rfl⟩⟩ | rfl := execEgrPush_next h
    · exact .refusesPush rec rfl hs ho
    · exact .accepts rec rfl hs hw ho hr
    · exact .waits
  | ingPop =>
    obtain ⟨ho, ⟨rec, rest, hb, rfl⟩ | ⟨hb, hx, rfl⟩⟩ | rfl := execIngPop_next h
    · exact .pops rec rest rfl ho hb
    · exact .drains rfl ho hb hx
    · exact .waits
  | egrTxClose =>
    obtain ⟨ho, rfl⟩ | rfl := execEgrTxClose_next h
    · exact .senderGone rfl ho
    · exact .waits
  | ingRxClose =>
    obtain ⟨ho, rfl⟩ | rfl := execIngRxClose_next h
    · exact .consumerGone rfl ho
    · exact .waits
  | supHalt =>
    obtain ⟨hl, hd, rfl⟩ | rfl := execSupHalt_next h
    · exact .halts rfl hl hd
    · exact .waits
  | decode r =>
    obtain ⟨_, rfl⟩ := execDecode_next h
    exact .answers _ rfl
  | encode m a => injection h with h; subst h; exact .answers _ rfl
  | toCan a m => injection h with h; subst h; exact .answers _ rfl
  | splitCan w => injection h with h; subst h; exact .answers _ rfl
  | reset => injection h with h; subst h; exact .resets rfl

/-- A step of the machine: nothing is scheduled, or the transaction at the head has moved the machine. -/
theorem step_move {s t : State} (h : step s = .next t) :
    (s.schedule = [] ∧ t = s) ∨
    ∃ x rest u, s.schedule = x :: rest ∧ Move (instrOf s.cfg x) { s with schedule := rest } u ∧ t = requeue x u := by
  unfold step at h
  split at h
  · next hs =>
    injection h with h
    exact .inl ⟨hs, h.symm⟩
  · next x rest hs =>
    obtain ⟨u, hu, rfl⟩ := settleStep_next h
    exact .inr ⟨x, rest, u, hs, exec_move hu, rfl⟩

end Sys2Proof.Machine
end

