-- ==== Sys2Proof/Laws/Operands.lean ====
section
/-! SUPPORT. The little-endian fields as concatenations, high byte first, and the enum lookups read in both directions:
one spec lemma per operand form. -/

namespace Sys2Proof.Machine

open Sys2Proof

/-- `le16` is the concatenation of its two bytes, the higher offset on top (R61). -/
theorem le16_eq_append (p : Payload) (k : Nat) : le16 p k = p.get (k + 1) ++ p.get k := by
  unfold le16
  generalize p.get k = a
  generalize p.get (k + 1) = b
  apply BitVec.eq_of_getLsbD_eq
  intro i hi
  refine Eq.trans ?_ (BitVec.getLsbD_append (x := b) (y := a) (i := i)).symm
  by_cases h : i < 8
  · simp [h, hi]
  · simp [h, hi, BitVec.getLsbD_of_ge a i (by omega)]

/-- `le32` is the concatenation of its four bytes, the highest offset on top (R61). -/
theorem le32_eq_append (p : Payload) (k : Nat) :
    le32 p k = p.get (k + 3) ++ p.get (k + 2) ++ p.get (k + 1) ++ p.get k := by
  unfold le32
  generalize p.get k = a
  generalize p.get (k + 1) = b
  generalize p.get (k + 2) = c
  generalize p.get (k + 3) = d
  apply BitVec.eq_of_getLsbD_eq
  intro i hi
  refine Eq.trans ?_ (BitVec.getLsbD_append (x := d ++ c ++ b) (y := a) (i := i)).symm
  rw [BitVec.getLsbD_append, BitVec.getLsbD_append]
  by_cases h1 : i < 8
  · simp [h1, hi, show i < 16 by omega, show i < 24 by omega]
  · have ha : a.getLsbD i = false := BitVec.getLsbD_of_ge a i (by omega)
    by_cases h2 : i < 16
    · simp [h1, h2, hi, ha, show i < 24 by omega, show i - 8 < 8 by omega]
    · have hb : b.getLsbD (i - 8) = false := BitVec.getLsbD_of_ge b _ (by omega)
      by_cases h3 : i < 24
      · simp [h1, h2, h3, hi, ha, hb, show ¬i - 8 < 8 by omega,
          show i - 8 - 8 = i - 16 by omega, show i - 16 < 8 by omega]
      · have hc : c.getLsbD (i - 16) = false := BitVec.getLsbD_of_ge c _ (by omega)
        simp [h1, h2, h3, hi, ha, hb, hc, show ¬i - 8 < 8 by omega, show ¬i - 8 - 8 < 8 by omega,
          show i - 8 - 8 - 8 = i - 24 by omega]

/-- The low byte of a concatenation. -/
theorem extractLsb'_append_low {m : Nat} (x : BitVec m) (a : Byte) : (x ++ a).extractLsb' 0 8 = a := by
  ext i hi
  simp [BitVec.getLsbD_append, hi]

/-- A byte above the low one. -/
theorem extractLsb'_append_high {m k : Nat} (x : BitVec m) (a : Byte) :
    (x ++ a).extractLsb' (k + 8) 8 = x.extractLsb' k 8 := by
  ext i hi
  simp [BitVec.getLsbD_append, show ¬k + 8 + i < 8 by omega, show k + 8 + i - 8 = k + i by omega]

/-- `bytes_le16` of a concatenation, the low byte first (R14). -/
theorem bytesLe16_append (a b : Byte) : bytesLe16 (b ++ a) = [a, b] := by
  have h1 : (b ++ a).extractLsb' 0 8 = a := extractLsb'_append_low b a
  have h2 : (b ++ a).extractLsb' 8 8 = b := (extractLsb'_append_high (k := 0) b a).trans (by simp)
  exact congrArg₂ (fun x y => [x, y]) h1 h2

/-- `bytes_le32` of a concatenation, the lowest byte first (R14). -/
theorem bytesLe32_append (a b c d : Byte) : bytesLe32 (d ++ c ++ b ++ a) = [a, b, c, d] := by
  have h1 : (d ++ c ++ b ++ a).extractLsb' 0 8 = a := extractLsb'_append_low _ a
  have h2 : (d ++ c ++ b ++ a).extractLsb' 8 8 = b :=
    (extractLsb'_append_high (k := 0) _ a).trans (extractLsb'_append_low _ b)
  have h3 : (d ++ c ++ b ++ a).extractLsb' 16 8 = c :=
    (extractLsb'_append_high (k := 8) _ a).trans
      ((extractLsb'_append_high (k := 0) _ b).trans (extractLsb'_append_low _ c))
  have h4 : (d ++ c ++ b ++ a).extractLsb' 24 8 = d :=
    (extractLsb'_append_high (k := 16) _ a).trans
      ((extractLsb'_append_high (k := 8) _ b).trans ((extractLsb'_append_high (k := 0) d c).trans (by simp)))
  show [_, _, _, _] = _
  exact congrArg₂ List.cons h1 (congrArg₂ List.cons h2 (congrArg₂ List.cons h3 (congrArg₂ List.cons h4 rfl)))

/-- A decoded Trigger has the byte's code (R99). -/
theorem triggerCode_of_decTrigger {c : Config} {b : Byte} {m : Trigger} (h : decTrigger c b = some m) :
    triggerCode c m = b := by
  simpa using List.find?_some h

/-- A decoded OutputState has the byte's code (R99). -/
theorem outStateCode_of_decOutState {c : Config} {b : Byte} {m : OutputState} (h : decOutState c b = some m) :
    outStateCode c m = b := by
  simpa using List.find?_some h

/-- A decoded IoKind has the byte's code (R99). -/
theorem ioKindCode_of_decIoKind {b : Byte} {m : IoKind} (h : decIoKind b = some m) : ioKindCode m = b := by
  simpa using List.find?_some h

/-- A decoded IoState has the byte's code (R99). -/
theorem ioStateCode_of_decIoState {c : Config} {b : Byte} {m : IoState} (h : decIoState c b = some m) :
    ioStateCode c m = b := by
  simpa using List.find?_some h

end Sys2Proof.Machine
end

