-- ==== Sys2Proof/Laws/PerInstr.lean ====
section
/-! SUPPORT. The per-instruction family EncodedPort: the port on which `encode` puts an instruction and the shape of what
it puts there (R90, R96, R107). One lemma per constructor. -/

namespace Sys2Proof.Laws

open Sys2Proof

/-- A FRAME13 row goes as 13 bytes that begin with the two sync bytes, a CAN11 row as an 11-bit number, an OP row as
itself. -/
def EncodedPort.Statement (i : Instr) : Prop :=
  match encode i with
  | .rx (.chunk c) => c.length = 13 ∧ c.take 2 = [sync1, sync2]
  | .rx .zero => False
  | .rx .ioError => False
  | .can w => w.toNat < 2048
  | .op j => j = i

/-- Every combined address is below 2048 (R96). -/
theorem encodeCan_lt (t : MsgType) (a : DevAddr) : ((t.code.setWidth 16 <<< 6) ||| a.setWidth 16 : BitVec 16).toNat < 2048 := by
  revert a
  cases t <;> decide

theorem EncodedPort.error (a : DevAddr) (n : Nat) (p : Payload) : EncodedPort.Statement (.error a n p) := ⟨rfl, rfl⟩
theorem EncodedPort.outputChanged (a : DevAddr) (n : Nat) (p : Payload) : EncodedPort.Statement (.outputChanged a n p) := ⟨rfl, rfl⟩
theorem EncodedPort.inputChanged (a : DevAddr) (n : Nat) (p : Payload) : EncodedPort.Statement (.inputChanged a n p) := ⟨rfl, rfl⟩
theorem EncodedPort.setOutput (a : DevAddr) (n : Nat) (p : Payload) : EncodedPort.Statement (.setOutput a n p) := ⟨rfl, rfl⟩
theorem EncodedPort.triggerInput (a : DevAddr) (n : Nat) (p : Payload) : EncodedPort.Statement (.triggerInput a n p) := ⟨rfl, rfl⟩
theorem EncodedPort.callProcedure (a : DevAddr) (n : Nat) (p : Payload) : EncodedPort.Statement (.callProcedure a n p) := ⟨rfl, rfl⟩
theorem EncodedPort.shutterCommand (a : DevAddr) (n : Nat) (p : Payload) : EncodedPort.Statement (.shutterCommand a n p) := ⟨rfl, rfl⟩
theorem EncodedPort.requestStatus (a : DevAddr) (n : Nat) (p : Payload) : EncodedPort.Statement (.requestStatus a n p) := ⟨rfl, rfl⟩
theorem EncodedPort.statusIo (a : DevAddr) (n : Nat) (p : Payload) : EncodedPort.Statement (.statusIo a n p) := ⟨rfl, rfl⟩
theorem EncodedPort.status (a : DevAddr) (n : Nat) (p : Payload) : EncodedPort.Statement (.status a n p) := ⟨rfl, rfl⟩
theorem EncodedPort.timeAnnouncement (a : DevAddr) (n : Nat) (p : Payload) : EncodedPort.Statement (.timeAnnouncement a n p) := ⟨rfl, rfl⟩
theorem EncodedPort.info (a : DevAddr) (n : Nat) (p : Payload) : EncodedPort.Statement (.info a n p) := ⟨rfl, rfl⟩
theorem EncodedPort.pong (a : DevAddr) (n : Nat) (p : Payload) : EncodedPort.Statement (.pong a n p) := ⟨rfl, rfl⟩
theorem EncodedPort.ping (a : DevAddr) (n : Nat) (p : Payload) : EncodedPort.Statement (.ping a n p) := ⟨rfl, rfl⟩
theorem EncodedPort.errorCan (a : DevAddr) : EncodedPort.Statement (.errorCan a) := encodeCan_lt .error a
theorem EncodedPort.outputChangedCan (a : DevAddr) : EncodedPort.Statement (.outputChangedCan a) := encodeCan_lt .outputChanged a
theorem EncodedPort.inputChangedCan (a : DevAddr) : EncodedPort.Statement (.inputChangedCan a) := encodeCan_lt .inputChanged a
theorem EncodedPort.setOutputCan (a : DevAddr) : EncodedPort.Statement (.setOutputCan a) := encodeCan_lt .setOutput a
theorem EncodedPort.triggerInputCan (a : DevAddr) : EncodedPort.Statement (.triggerInputCan a) := encodeCan_lt .triggerInput a
theorem EncodedPort.callProcedureCan (a : DevAddr) : EncodedPort.Statement (.callProcedureCan a) := encodeCan_lt .callProcedure a
theorem EncodedPort.shutterCommandCan (a : DevAddr) : EncodedPort.Statement (.shutterCommandCan a) := encodeCan_lt .shutterCommand a
theorem EncodedPort.requestStatusCan (a : DevAddr) : EncodedPort.Statement (.requestStatusCan a) := encodeCan_lt .requestStatus a
theorem EncodedPort.statusIoCan (a : DevAddr) : EncodedPort.Statement (.statusIoCan a) := encodeCan_lt .statusIo a
theorem EncodedPort.statusCan (a : DevAddr) : EncodedPort.Statement (.statusCan a) := encodeCan_lt .status a
theorem EncodedPort.timeAnnouncementCan (a : DevAddr) : EncodedPort.Statement (.timeAnnouncementCan a) := encodeCan_lt .timeAnnouncement a
theorem EncodedPort.infoCan (a : DevAddr) : EncodedPort.Statement (.infoCan a) := encodeCan_lt .info a
theorem EncodedPort.pongCan (a : DevAddr) : EncodedPort.Statement (.pongCan a) := encodeCan_lt .pong a
theorem EncodedPort.pingCan (a : DevAddr) : EncodedPort.Statement (.pingCan a) := encodeCan_lt .ping a
theorem EncodedPort.ingRead (r : ReadResult) : EncodedPort.Statement (.ingRead r) := rfl
theorem EncodedPort.ingPush : EncodedPort.Statement .ingPush := rfl
theorem EncodedPort.egrRecv : EncodedPort.Statement .egrRecv := rfl
theorem EncodedPort.egrWrite (w : WriteResult) : EncodedPort.Statement (.egrWrite w) := rfl
theorem EncodedPort.egrPush (r : WireRecord) : EncodedPort.Statement (.egrPush r) := rfl
theorem EncodedPort.ingPop : EncodedPort.Statement .ingPop := rfl
theorem EncodedPort.egrTxClose : EncodedPort.Statement .egrTxClose := rfl
theorem EncodedPort.ingRxClose : EncodedPort.Statement .ingRxClose := rfl
theorem EncodedPort.supHalt : EncodedPort.Statement .supHalt := rfl
theorem EncodedPort.decode (r : WireRecord) : EncodedPort.Statement (.decode r) := rfl
theorem EncodedPort.encode (m : Message) (a : Byte) : EncodedPort.Statement (.encode m a) := rfl
theorem EncodedPort.toCan (a t : Byte) : EncodedPort.Statement (.toCan a t) := rfl
theorem EncodedPort.splitCan (w : BitVec 16) : EncodedPort.Statement (.splitCan w) := rfl
theorem EncodedPort.reset : EncodedPort.Statement .reset := rfl

end Sys2Proof.Laws
end

