-- ==== Sys2Proof/Tests/Slice0.lean ====
section
/-! SUPPORT. The model's own tests: the smoke test of WellFormed, decoding from words written out from `spec/30_encoding.md`
and the frames of `spec/95_test_vectors.md`, one step per vector, and for every statement with hypotheses a witness that
meets them. Expected values are those of `spec/95_test_vectors.md` (the vector's name stands in each docstring). -/

namespace Sys2Proof.Tests

open Sys2Proof Sys2Proof.Machine

/-! ## Helpers -/

/-- The next state of an outcome. -/
def nextOf : Result → Option State
  | .next s => some s
  | .fault _ => none
  | .refused _ => none

/-- The fault of an outcome. -/
def faultOf : Result → Option Fault
  | .next _ => none
  | .fault f => some f
  | .refused _ => none

/-- The answer on the port after an outcome. -/
def answerOf (r : Result) : Option Answer := (nextOf r).map (·.answer)

/-- The record of vector M4, `a` in the vectors below. -/
def recA : WireRecord := ⟨2, 0x08, 2, ⟨5, 1, 0, 0, 0, 0, 0, 0⟩⟩

/-- The record of vector M7, `b`. -/
def recB : WireRecord := ⟨3, 0x0D, 0, Payload.zero⟩

/-- A record of length 8. -/
def recLong : WireRecord := ⟨63, 0x1F, 8, ⟨0xFF, 0xFF, 0xFF, 0xFF, 0xFF, 0xFF, 0xFF, 0xFF⟩⟩

/-- A record of length 9, which R21 excludes. -/
def recTooLong : WireRecord := ⟨2, 0x08, 9, Payload.zero⟩

/-- A record with a byte beyond its length, which R21 excludes. -/
def recTail : WireRecord := ⟨2, 0x08, 2, ⟨5, 1, 7, 0, 0, 0, 0, 0⟩⟩

/-- The frame of vector F1. -/
def frameA : List Byte := [0x21, 0x7C, 0x02, 0x08, 0x02, 0x05, 0x01, 0, 0, 0, 0, 0, 0]

/-- The frame of vector F10, whose length byte is 9. -/
def frameBadLen : List Byte := [0x21, 0x7C, 0x02, 0x08, 9, 0, 0, 0, 0, 0, 0, 0, 0]

/-- ING holds record `a`, INGQ holds `n` records. -/
def pushing (n : Nat) : State :=
  { State.reset with ing := .push recA, ingq := ⟨List.replicate n recB, true, true⟩ }

/-- EGR holds record `a`, EGRQ holds `b`. -/
def writing : State := { State.reset with egr := .write recA, egrq := ⟨[recB], true, true⟩ }

/-- EGRQ holds `n` records. -/
def queued (n : Nat) : State := { State.reset with egrq := ⟨List.replicate n recB, true, true⟩ }

/-- INGQ holds `a` and `b`. -/
def received : State := { State.reset with ingq := ⟨[recA, recB], true, true⟩ }

/-- The start of vector H1, with `b`, `a` in EGRQ. -/
def peerGone : State :=
  { State.reset with
    ing := .done .peerDisconnected
    firstErr := some .peerDisconnected
    ingq := ⟨[recA], true, true⟩
    egrq := ⟨[recB, recA], true, true⟩ }

/-- The halted block of vector H1. -/
def halted : State := (nextOf (exec .supHalt peerGone)).getD State.reset

/-! ## WellFormed refuses an ill-formed term for each check -/

theorem test_wf_record : recA.wf = true := by decide
theorem test_wf_record_long : recLong.wf = true := by decide
theorem test_wf_record_length_nine : recTooLong.wf = false := by decide
theorem test_wf_record_tail : recTail.wf = false := by decide
theorem test_wf_frame_length_nine : (Instr.ping 2 9 Payload.zero).wf Config.reference = false := by decide
theorem test_wf_frame_tail : (Instr.ping 2 2 ⟨1, 2, 3, 0, 0, 0, 0, 0⟩).wf Config.reference = false := by decide
theorem test_wf_chunk_empty : (Instr.ingRead (.chunk [])).wf Config.reference = false := by decide
theorem test_wf_chunk_full : (Instr.ingRead (.chunk (List.replicate 512 0))).wf Config.reference = true := by
  simp [-List.reduceReplicate, Instr.wf, ReadResult.wf, Config.reference]
theorem test_wf_chunk_too_long :
    (Instr.ingRead (.chunk (List.replicate 513 0))).wf Config.reference = false := by
  simp [-List.reduceReplicate, Instr.wf, ReadResult.wf, Config.reference]
theorem test_wf_push : (Instr.egrPush recTail).wf Config.reference = false := by decide
theorem test_wf_decode : (Instr.decode recTooLong).wf Config.reference = false := by decide
theorem test_wf_transaction_rx : (Transaction.rx (.chunk [])).wf Config.reference = false := by decide
theorem test_wf_transaction_op : (Transaction.op (.egrPush recTail)).wf Config.reference = false := by decide
theorem test_wf_config : Config.reference.legal = true := by decide
theorem test_wf_config_zero_capacity : { Config.reference with ingCap := 0 }.legal = false := by decide
theorem test_wf_config_on_is_one : { Config.reference with outState := ⟨1, 2⟩ }.legal = false := by decide

/-! ## Decoding and reception of a frame of every named type

The words are the integers `F` of R92 for the frames of vectors M1 to M13 and F18 (byte 0 in bits 7:0). -/

/-- M1. -/
theorem test_decode_error :
    decodeTableWord 104 0x00000000DEADBEEF0402057C21 =
      some (.error 5 4 ⟨0xEF, 0xBE, 0xAD, 0xDE, 0x00, 0x00, 0x00, 0x00⟩) := by decide

/-- M1: `decode(record)`. -/
theorem test_step_error :
    answerOf (step (State.reset.withFetchWord 104 0x00000000DEADBEEF0402057C21)) =
      some (.decoded (.ok (.error 0xDEADBEEF))) := by decide

/-- M2. -/
theorem test_decode_outputChanged :
    decodeTableWord 104 0x00000000000000030204077C21 =
      some (.outputChanged 7 2 ⟨0x03, 0x00, 0x00, 0x00, 0x00, 0x00, 0x00, 0x00⟩) := by decide

/-- M2: `decode(record)`. -/
theorem test_step_outputChanged :
    answerOf (step (State.reset.withFetchWord 104 0x00000000000000030204077C21)) =
      some (.decoded (.ok (.outputChanged 3 .off))) := by decide

/-- M3. -/
theorem test_decode_inputChanged :
    decodeTableWord 104 0x00000000000001040205017C21 =
      some (.inputChanged 1 2 ⟨0x04, 0x01, 0x00, 0x00, 0x00, 0x00, 0x00, 0x00⟩) := by decide

/-- M3: `decode(record)`. -/
theorem test_step_inputChanged :
    answerOf (step (State.reset.withFetchWord 104 0x00000000000001040205017C21)) =
      some (.decoded (.ok (.inputChanged 4 .longClick))) := by decide

/-- M4. -/
theorem test_decode_setOutput :
    decodeTableWord 104 0x00000000000001050208027C21 =
      some (.setOutput 2 2 ⟨0x05, 0x01, 0x00, 0x00, 0x00, 0x00, 0x00, 0x00⟩) := by decide

/-- M4: `decode(record)`. -/
theorem test_step_setOutput :
    answerOf (step (State.reset.withFetchWord 104 0x00000000000001050208027C21)) =
      some (.decoded (.ok (.setOutput 5 .on))) := by decide

/-- M5. -/
theorem test_decode_triggerInput :
    decodeTableWord 104 0x00000000000000000209097C21 =
      some (.triggerInput 9 2 ⟨0x00, 0x00, 0x00, 0x00, 0x00, 0x00, 0x00, 0x00⟩) := by decide

/-- M5: `decode(record)`. -/
theorem test_step_triggerInput :
    answerOf (step (State.reset.withFetchWord 104 0x00000000000000000209097C21)) =
      some (.decoded (.ok (.triggerInput 0 .shortClick))) := by decide

/-- M6. -/
theorem test_decode_callProcedure :
    decodeTableWord 104 0x0000000000000007010A0C7C21 =
      some (.callProcedure 12 1 ⟨0x07, 0x00, 0x00, 0x00, 0x00, 0x00, 0x00, 0x00⟩) := by decide

/-- M6: `decode(record)`. -/
theorem test_step_callProcedure :
    answerOf (step (State.reset.withFetchWord 104 0x0000000000000007010A0C7C21)) =
      some (.decoded (.ok (.callProcedure 7))) := by decide

/-- F18. -/
theorem test_decode_shutterCommand :
    decodeTableWord 104 0x0000000000000201020B047C21 =
      some (.shutterCommand 4 2 ⟨0x01, 0x02, 0x00, 0x00, 0x00, 0x00, 0x00, 0x00⟩) := by decide

/-- F18: `decode(record)`. -/
theorem test_step_shutterCommand :
    answerOf (step (State.reset.withFetchWord 104 0x0000000000000201020B047C21)) =
      some (.decoded (.error .unknownType)) := by decide

/-- M7. -/
theorem test_decode_requestStatus :
    decodeTableWord 104 0x0000000000000000000D037C21 =
      some (.requestStatus 3 0 ⟨0x00, 0x00, 0x00, 0x00, 0x00, 0x00, 0x00, 0x00⟩) := by decide

/-- M7: `decode(record)`. -/
theorem test_step_requestStatus :
    answerOf (step (State.reset.withFetchWord 104 0x0000000000000000000D037C21)) =
      some (.decoded (.ok .requestStatus)) := by decide

/-- M8. -/
theorem test_decode_statusIo :
    decodeTableWord 104 0x0000000000010102030E067C21 =
      some (.statusIo 6 3 ⟨0x02, 0x01, 0x01, 0x00, 0x00, 0x00, 0x00, 0x00⟩) := by decide

/-- M8: `decode(record)`. -/
theorem test_step_statusIo :
    answerOf (step (State.reset.withFetchWord 104 0x0000000000010102030E067C21)) =
      some (.decoded (.ok (.statusIo 2 .output .on))) := by decide

/-- M9. -/
theorem test_decode_status :
    decodeTableWord 104 0x010200030001518008100A7C21 =
      some (.status 10 8 ⟨0x80, 0x51, 0x01, 0x00, 0x03, 0x00, 0x02, 0x01⟩) := by decide

/-- M9: `decode(record)`. -/
theorem test_step_status :
    answerOf (step (State.reset.withFetchWord 104 0x010200030001518008100A7C21)) =
      some (.decoded (.ok (.status 86400 3 0x0102))) := by decide

/-- M10. -/
theorem test_decode_timeAnnouncement :
    decodeTableWord 104 0x051E0F0A010307E808113F7C21 =
      some (.timeAnnouncement 63 8 ⟨0xE8, 0x07, 0x03, 0x01, 0x0A, 0x0F, 0x1E, 0x05⟩) := by decide

/-- M10: `decode(record)`. -/
theorem test_step_timeAnnouncement :
    answerOf (step (State.reset.withFetchWord 104 0x051E0F0A010307E808113F7C21)) =
      some (.decoded (.ok (.timeAnnouncement 2024 3 1 10 15 30 5))) := by decide

/-- M11. -/
theorem test_decode_info :
    decodeTableWord 104 0x00000A0B0C0D01020612027C21 =
      some (.info 2 6 ⟨0x02, 0x01, 0x0D, 0x0C, 0x0B, 0x0A, 0x00, 0x00⟩) := by decide

/-- M11: `decode(record)`. -/
theorem test_step_info :
    answerOf (step (State.reset.withFetchWord 104 0x00000A0B0C0D01020612027C21)) =
      some (.decoded (.ok (.info 0x0102 0x0A0B0C0D))) := by decide

/-- M12. -/
theorem test_decode_pong :
    decodeTableWord 104 0x000000000000BEEF021D027C21 =
      some (.pong 2 2 ⟨0xEF, 0xBE, 0x00, 0x00, 0x00, 0x00, 0x00, 0x00⟩) := by decide

/-- M12: `decode(record)`. -/
theorem test_step_pong :
    answerOf (step (State.reset.withFetchWord 104 0x000000000000BEEF021D027C21)) =
      some (.decoded (.ok (.pong 0xBEEF))) := by decide

/-- M13. -/
theorem test_decode_ping :
    decodeTableWord 104 0x0000000000001234021E027C21 =
      some (.ping 2 2 ⟨0x34, 0x12, 0x00, 0x00, 0x00, 0x00, 0x00, 0x00⟩) := by decide

/-- M13: `decode(record)`. -/
theorem test_step_ping :
    answerOf (step (State.reset.withFetchWord 104 0x0000000000001234021E027C21)) =
      some (.decoded (.ok (.ping 0x1234))) := by decide

/-! ## Decoding of every combined address (R96: `msg_type` in bits 10:6, the address in bits 5:0; here address 63) -/

theorem test_decode_errorCan : decodeTableWord 16 0x0BF = some (.errorCan 63) := by decide
theorem test_step_errorCan :
    answerOf (step (State.reset.withFetchWord 16 0x085)) = some (.split 5 0x02) := by decide

theorem test_decode_outputChangedCan : decodeTableWord 16 0x13F = some (.outputChangedCan 63) := by decide
theorem test_step_outputChangedCan :
    answerOf (step (State.reset.withFetchWord 16 0x105)) = some (.split 5 0x04) := by decide

theorem test_decode_inputChangedCan : decodeTableWord 16 0x17F = some (.inputChangedCan 63) := by decide
theorem test_step_inputChangedCan :
    answerOf (step (State.reset.withFetchWord 16 0x145)) = some (.split 5 0x05) := by decide

theorem test_decode_setOutputCan : decodeTableWord 16 0x23F = some (.setOutputCan 63) := by decide
theorem test_step_setOutputCan :
    answerOf (step (State.reset.withFetchWord 16 0x205)) = some (.split 5 0x08) := by decide

theorem test_decode_triggerInputCan : decodeTableWord 16 0x27F = some (.triggerInputCan 63) := by decide
theorem test_step_triggerInputCan :
    answerOf (step (State.reset.withFetchWord 16 0x245)) = some (.split 5 0x09) := by decide

theorem test_decode_callProcedureCan : decodeTableWord 16 0x2BF = some (.callProcedureCan 63) := by decide
theorem test_step_callProcedureCan :
    answerOf (step (State.reset.withFetchWord 16 0x285)) = some (.split 5 0x0A) := by decide

theorem test_decode_shutterCommandCan : decodeTableWord 16 0x2FF = some (.shutterCommandCan 63) := by decide
theorem test_step_shutterCommandCan :
    answerOf (step (State.reset.withFetchWord 16 0x2C5)) = some (.split 5 0x0B) := by decide

theorem test_decode_requestStatusCan : decodeTableWord 16 0x37F = some (.requestStatusCan 63) := by decide
theorem test_step_requestStatusCan :
    answerOf (step (State.reset.withFetchWord 16 0x345)) = some (.split 5 0x0D) := by decide

theorem test_decode_statusIoCan : decodeTableWord 16 0x3BF = some (.statusIoCan 63) := by decide
theorem test_step_statusIoCan :
    answerOf (step (State.reset.withFetchWord 16 0x385)) = some (.split 5 0x0E) := by decide

theorem test_decode_statusCan : decodeTableWord 16 0x43F = some (.statusCan 63) := by decide
theorem test_step_statusCan :
    answerOf (step (State.reset.withFetchWord 16 0x405)) = some (.split 5 0x10) := by decide

theorem test_decode_timeAnnouncementCan : decodeTableWord 16 0x47F = some (.timeAnnouncementCan 63) := by decide
theorem test_step_timeAnnouncementCan :
    answerOf (step (State.reset.withFetchWord 16 0x445)) = some (.split 5 0x11) := by decide

theorem test_decode_infoCan : decodeTableWord 16 0x4BF = some (.infoCan 63) := by decide
theorem test_step_infoCan :
    answerOf (step (State.reset.withFetchWord 16 0x485)) = some (.split 5 0x12) := by decide

theorem test_decode_pongCan : decodeTableWord 16 0x77F = some (.pongCan 63) := by decide
theorem test_step_pongCan :
    answerOf (step (State.reset.withFetchWord 16 0x745)) = some (.split 5 0x1D) := by decide

theorem test_decode_pingCan : decodeTableWord 16 0x7BF = some (.pingCan 63) := by decide
theorem test_step_pingCan :
    answerOf (step (State.reset.withFetchWord 16 0x785)) = some (.split 5 0x1E) := by decide

/-! ## An operation has no word; it decodes to itself -/

theorem test_decode_ingRead : decode (.op (.ingRead .zero)) = .ok (.ingRead .zero) := by decide
theorem test_decode_rx_zero : decode (.rx .zero) = .ok (.ingRead .zero) := by decide
theorem test_decode_rx_ioError : decode (.rx .ioError) = .ok (.ingRead .ioError) := by decide
theorem test_decode_ingPush : decode (.op .ingPush) = .ok .ingPush := by decide
theorem test_decode_egrRecv : decode (.op .egrRecv) = .ok .egrRecv := by decide
theorem test_decode_egrWrite : decode (.op (.egrWrite .writeOk)) = .ok (.egrWrite .writeOk) := by decide
theorem test_decode_egrPush : decode (.op (.egrPush recA)) = .ok (.egrPush recA) := by decide
theorem test_decode_ingPop : decode (.op .ingPop) = .ok .ingPop := by decide
theorem test_decode_egrTxClose : decode (.op .egrTxClose) = .ok .egrTxClose := by decide
theorem test_decode_ingRxClose : decode (.op .ingRxClose) = .ok .ingRxClose := by decide
theorem test_decode_supHalt : decode (.op .supHalt) = .ok .supHalt := by decide
theorem test_decode_decode : decode (.op (.decode recA)) = .ok (.decode recA) := by decide
theorem test_decode_encode : decode (.op (.encode .requestStatus 3)) = .ok (.encode .requestStatus 3) := by decide
theorem test_decode_toCan : decode (.op (.toCan 2 8)) = .ok (.toCan 2 8) := by decide
theorem test_decode_splitCan : decode (.op (.splitCan 0x202)) = .ok (.splitCan 0x202) := by decide
theorem test_decode_reset : decode (.op .reset) = .ok .reset := by decide
theorem test_no_word_for_operations : decodeTableWord 0 0 = none := by decide

/-! ## Rejections, each by its name -/

/-- F2. -/
theorem test_reject_sync : decodeChunk (0x99 :: frameA.tail) = .error (.frame .sync) := by decide
/-- F4. -/
theorem test_reject_shifted : decodeChunk (0 :: frameA) = .error (.frame .sync) := by decide
/-- F5. -/
theorem test_reject_one_byte : decodeChunk [0x21] = .error (.frame .short) := by decide
/-- F7. -/
theorem test_reject_family : decodeChunk [0x21, 0, 0] = .error (.frame .family) := by decide
/-- F8. -/
theorem test_reject_two_bytes : decodeChunk [0x21, 0x7C] = .error (.frame .short) := by decide
/-- F9. -/
theorem test_reject_twelve_bytes : decodeChunk (frameA.take 12) = .error (.frame .short) := by decide
/-- F10. -/
theorem test_reject_length_nine : decodeChunk frameBadLen = .error (.frame .badLen) := by decide
/-- F12. -/
theorem test_reject_short_before_length : decodeChunk (frameBadLen.take 5) = .error (.frame .short) := by decide
/-- F17. -/
theorem test_reject_unassigned_type :
    decodeChunk [0x21, 0x7C, 0xFF, 0xFF, 0, 0, 0, 0, 0, 0, 0, 0, 0] = .error (.unnamedType 0x1F) := by decide
/-- A5. -/
theorem test_reject_unassigned_can : decodeCan 0x7C0 = .error (.unnamedType 0x1F) := by decide

/-! ## The framer and the serializer -/

/-- F14. -/
theorem test_frame_zeroes_the_slot :
    frameChunk [0x21, 0x7C, 2, 8, 0, 0xAA, 0xBB, 0xCC, 0xDD, 0xEE, 0xFF, 0x11, 0x22] =
      .ok ⟨2, 0x08, 0, Payload.zero⟩ := by decide
/-- F15. -/
theorem test_frame_ignores_the_tail :
    frameChunk [0x21, 0x7C, 2, 8, 2, 5, 1, 0xAA, 0xBB, 0xCC, 0xDD, 0xEE, 0xFF] = .ok recA := by decide
/-- F16. -/
theorem test_frame_ignores_high_bits :
    frameChunk [0x21, 0x7C, 0xC2, 0xE8, 2, 5, 1, 0, 0, 0, 0, 0, 0] = .ok recA := by decide
/-- F19. -/
theorem test_frame_second_frame_lost :
    frameChunk (frameA ++ [0x21, 0x7C, 3, 0x0D, 0, 0, 0, 0, 0, 0, 0, 0, 0]) = .ok recA := by decide
/-- E1. -/
theorem test_serialize : serialize recA = frameA := by decide
/-- E2. -/
theorem test_serialize_long :
    serialize recLong = [0x21, 0x7C, 0x3F, 0x1F, 8, 0xFF, 0xFF, 0xFF, 0xFF, 0xFF, 0xFF, 0xFF, 0xFF] := by decide

/-! ## One step of each operation -/

/-- I1. -/
theorem test_ingRead_zero :
    (nextOf (exec (.ingRead .zero) State.reset)).map (fun t => (t.ing, t.firstErr, t.log)) =
      some (.done .peerDisconnected, some .peerDisconnected, [⟨.zeroRead, .none⟩]) := by decide
/-- P1, step 1. -/
theorem test_ingRead_bad_chunk :
    (nextOf (exec (.ingRead (.chunk (0x99 :: frameA.tail))) State.reset)).map (fun t => (t.ing, t.log)) =
      some (.read, [⟨.sync, .chunkLength 13⟩]) := by decide
/-- I6: the record is the youngest of 15. -/
theorem test_ingPush_last_slot :
    (nextOf (exec .ingPush (pushing 14))).map (fun t => (t.ing, t.ingq.buf)) =
      some (.read, List.replicate 14 recB ++ [recA]) := by decide
/-- I8. -/
theorem test_ingPush_closed :
    (nextOf (exec .ingPush { pushing 0 with ingq := ⟨[], true, false⟩ })).map (fun t => (t.ing, t.firstErr, t.log)) =
      some (.done .ingressReceiverClosed, some .ingressReceiverClosed, [⟨.ingClosed, .none⟩]) := by decide
/-- E5. -/
theorem test_egrRecv_oldest :
    (nextOf (exec .egrRecv { State.reset with egrq := ⟨[recA, recB], true, true⟩ })).map
      (fun t => (t.egr, t.egrq.buf)) = some (.write recA, [recB]) := by decide
/-- E9. -/
theorem test_egrRecv_clean_end :
    (nextOf (exec .egrRecv { State.reset with egrq := ⟨[], false, true⟩ })).map (fun t => (t.egr, t.log)) =
      some (.done .ok, []) := by decide
/-- E6. -/
theorem test_egrWrite_ok :
    (nextOf (exec (.egrWrite .writeOk) writing)).map (fun t => (t.egr, t.tx)) =
      some (.recv, [⟨frameA, .writeOk⟩]) := by decide
/-- E7. -/
theorem test_egrWrite_error :
    (nextOf (exec (.egrWrite .writeError) writing)).map (fun t => (t.egr, t.firstErr, t.log, t.egrq.buf)) =
      some (.done (.err .writeFailed), some .writeFailed, [⟨.writeIo, .none⟩], [recB]) := by decide
/-- Q2. -/
theorem test_egrPush_last_slot :
    (nextOf (exec (.egrPush recA) (queued 14))).map (fun t => (t.egrq.buf, t.answer)) =
      some (List.replicate 14 recB ++ [recA], .pushed) := by decide
/-- Q5. -/
theorem test_egrPush_closed : answerOf (exec (.egrPush recA) halted) = some .closed := by decide
/-- Q6. -/
theorem test_ingPop_oldest :
    (nextOf (exec .ingPop received)).map (fun t => (t.ingq.buf, t.answer)) = some ([recB], .popped recA) := by decide
/-- Q8, the second pop. -/
theorem test_ingPop_drained :
    answerOf (exec .ingPop { State.reset with ingq := ⟨[], false, true⟩ }) = some .drained := by decide
/-- Q10. -/
theorem test_egrTxClose_keeps :
    (nextOf (exec .egrTxClose (queued 1))).map (·.egrq) = some ⟨[recB], false, true⟩ := by decide
/-- Q9. -/
theorem test_ingRxClose_destroys :
    (nextOf (exec .ingRxClose received)).map (·.ingq) = some ⟨[], true, false⟩ := by decide
/-- H1. -/
theorem test_supHalt :
    (nextOf (exec .supHalt peerGone)).map (fun t => (t.result, t.ingq, t.egrq, t.log)) =
      some (some (.err .peerDisconnected), ⟨[recA], false, true⟩, ⟨[], true, false⟩,
        [⟨.halt, .result (.err .peerDisconnected)⟩]) := by decide
/-- H6. -/
theorem test_supHalt_live : answerOf (exec .supHalt writing) = some .suspended := by decide
/-- X5. -/
theorem test_decode_unknown_before_length :
    answerOf (exec (.decode ⟨0, 0x1F, 5, ⟨1, 2, 3, 4, 5, 0, 0, 0⟩⟩) State.reset) =
      some (.decoded (.error .unknownType)) := by decide
/-- X8. -/
theorem test_decode_length_before_enum :
    answerOf (exec (.decode ⟨2, 0x08, 1, ⟨9, 0, 0, 0, 0, 0, 0, 0⟩⟩) State.reset) =
      some (.decoded (.error .lengthMismatch)) := by decide
/-- M16. -/
theorem test_encode_masks_the_address :
    answerOf (exec (.encode (.setOutput 5 .on) 66) State.reset) = some (.encoded recA) := by decide
/-- M18. -/
theorem test_encode_zero_code :
    answerOf (exec (.encode (.error 0) 0) State.reset) = some (.encoded ⟨0, 0x02, 4, Payload.zero⟩) := by decide
/-- A2. -/
theorem test_toCan : answerOf (exec (.toCan 63 0x11) State.reset) = some (.combined 0x47F) := by decide
/-- A8. -/
theorem test_toCan_masks : answerOf (exec (.toCan 0x42 0x28) State.reset) = some (.combined 0x202) := by decide
/-- A9. -/
theorem test_splitCan : answerOf (exec (.splitCan 0x202) State.reset) = some (.split 2 8) := by decide
/-- A14. -/
theorem test_splitCan_bit_eleven : answerOf (exec (.splitCan 0x800) State.reset) = some (.split 0 0) := by decide
/-- H9. -/
theorem test_reset : nextOf (exec .reset halted) = some State.reset := by decide
/-- X12. -/
theorem test_decode_bad_trigger :
    decodeRecord Config.reference ⟨1, 0x05, 2, ⟨3, 6, 0, 0, 0, 0, 0, 0⟩⟩ = .error .invalidEnumValue := by decide
/-- X14. -/
theorem test_decode_toggle :
    decodeRecord Config.reference ⟨1, 0x04, 2, ⟨3, 2, 0, 0, 0, 0, 0, 0⟩⟩ = .ok (.outputChanged 3 .toggle) := by decide
/-- X15. -/
theorem test_decode_bad_io_kind :
    decodeRecord Config.reference ⟨6, 0x0E, 3, ⟨2, 2, 1, 0, 0, 0, 0, 0⟩⟩ = .error .invalidEnumValue := by decide
/-- X18: no field is range-checked. -/
theorem test_decode_time_unchecked :
    decodeRecord Config.reference ⟨63, 0x11, 8, ⟨0, 0, 0, 0, 200, 99, 99, 0⟩⟩ =
      .ok (.timeAnnouncement 0 0 0 200 99 99 0) := by decide

/-! ## The schedule -/

/-- Log entry 2: a suspended transaction stays pending, behind the others. -/
theorem test_suspended_waits_behind :
    (nextOf (step { State.reset with schedule := [.op .egrRecv, .op (.egrPush recA)] })).map (·.schedule) =
      some [.op (.egrPush recA), .op .egrRecv] := by decide

/-- R70: with nothing scheduled no agent moves. -/
theorem test_idle_step : nextOf (step State.reset) = some State.reset := by decide

/-- Log entry 8. -/
theorem test_ill_formed_push_faults : faultOf (exec (.egrPush recTail) State.reset) = some .illFormedRecord := by decide

/-- Log entry 8. -/
theorem test_empty_chunk_faults : faultOf (exec (.ingRead (.chunk [])) State.reset) = some .emptyChunk := by decide

/-! ## Witnesses: for every statement with hypotheses, states and operands that meet them -/

theorem witness_DecodeOfEncodeIsTheInstruction :
    (Instr.setOutput 2 2 ⟨5, 1, 0, 0, 0, 0, 0, 0⟩).wf Config.reference = true ∧
    (Instr.ping 63 8 ⟨1, 2, 3, 4, 5, 6, 7, 8⟩).wf Config.reference = true ∧
    (Instr.requestStatus 0 0 Payload.zero).wf Config.reference = true ∧
    (Instr.pingCan 63).wf Config.reference = true ∧ (Instr.egrPush recLong).wf Config.reference = true := by decide

theorem witness_StepRunsTheDecodedInstruction_runs :
    (State.reset.withFetchWord 104 0x02007C21).schedule =
        .rx (.chunk [0x21, 0x7C, 0, 2, 0, 0, 0, 0, 0, 0, 0, 0, 0]) :: [] ∧
      (Transaction.rx (.chunk [0x21, 0x7C, 0, 2, 0, 0, 0, 0, 0, 0, 0, 0, 0])).wf Config.reference = true ∧
      decode (.rx (.chunk [0x21, 0x7C, 0, 2, 0, 0, 0, 0, 0, 0, 0, 0, 0])) = .ok (.error 0 0 Payload.zero) ∧
      answerOf (exec (.error 0 0 Payload.zero) State.reset) = some (.decoded (.error .lengthMismatch)) := by decide

theorem witness_StepRunsTheDecodedInstruction_waits :
    (Transaction.op .egrRecv).wf Config.reference = true ∧ decode (.op .egrRecv) = .ok .egrRecv ∧
      answerOf (exec .egrRecv State.reset) = some .suspended := by decide

theorem witness_StepRunsTheDecodedInstruction_faults :
    ({ State.reset with schedule := [.op (.egrPush recTail)] } : State).schedule = .op (.egrPush recTail) :: [] ∧
      faultOf (exec (.egrPush recTail) { State.reset with schedule := [] }) = some .illFormedRecord := by decide

theorem witness_StepRunsWhatDecodesToNoRow :
    decode (.rx (.chunk [0x99])) = .error (.frame .sync) ∧ decode (.can 0x7C0) = .error (.unnamedType 0x1F) ∧
      State.reset.schedule = [] ∧
      ({ State.reset with schedule := [.rx (.chunk [0x99])] } : State).schedule = .rx (.chunk [0x99]) :: [] ∧
      ({ State.reset with schedule := [.can 0x7C0] } : State).schedule = .can 0x7C0 :: [] := by decide

theorem witness_FramingInvertsSerialising :
    recA.wf = true ∧ recLong.wf = true ∧ frameChunk frameA = .ok recA ∧ frameChunk (frameA ++ [0]) = .ok recA := by
  decide

theorem witness_FrameChunkChecksInOrder :
    (0x20 : Byte) ≠ 0x21 ∧ (0x7D : Byte) ≠ 0x7C ∧ ([] : List Byte).length < 11 ∧ (List.replicate 10 (0 : Byte)).length < 11 ∧
      8 < (9 : Byte).toNat ∧ 8 < (255 : Byte).toNat ∧ (8 : Byte).toNat ≤ 8 ∧ (0 : Byte).toNat ≤ 8 := by decide

theorem witness_FramedRecordsAreWellFormed : frameChunk frameA = .ok recA := by decide

theorem witness_IgnoredBitsHaveNoEffect :
    (0x02 : Byte).extractLsb' 0 6 = (0xC2 : Byte).extractLsb' 0 6 ∧
      (0x08 : Byte).extractLsb' 0 5 = (0xE8 : Byte).extractLsb' 0 5 ∧
      (∀ i, i < (2 : Byte).toNat → Payload.get ⟨5, 1, 0, 0, 0, 0, 0, 0⟩ i = Payload.get ⟨5, 1, 9, 9, 9, 9, 9, 9⟩ i) ∧
      recA.wf = true ∧ recA.length ≤ 2 := by decide

theorem witness_SerializeWritesTheFrame : recA.wf = true ∧ recLong.wf = true ∧ recB.wf = true := by decide

theorem witness_ZeroLengthReadEndsIngress : reading State.reset = true ∧ isIngStep (.ingRead .zero) = true := by decide

theorem witness_NonFatalReadsOnlyLog_one_byte :
    reading State.reset = true ∧ 1 ≤ ([0x99] : List Byte).length ∧ ([0x99] : List Byte).length ≤ State.reset.cfg.chunkSize ∧
      frameChunk [0x99] = .error .sync ∧ frameChunk [0x21] = .error .short := by decide

theorem witness_NonFatalReadsOnlyLog_family_and_length :
    frameChunk [0x21, 0] = .error .family ∧ frameChunk frameBadLen = .error .badLen ∧ frameChunk frameA = .ok recA ∧
      ([0x21, 0] : List Byte).length ≤ State.reset.cfg.chunkSize ∧ frameBadLen.length ≤ State.reset.cfg.chunkSize ∧
      frameA.length ≤ State.reset.cfg.chunkSize := by decide

theorem witness_NonFatalReadsOnlyLog_full_chunk :
    (0x99 :: List.replicate 511 (0 : Byte)).length ≤ State.reset.cfg.chunkSize ∧
      frameChunk (0x99 :: List.replicate 511 (0 : Byte)) = .error .sync := ⟨by simp [-List.reduceReplicate, State.reset, State.resetWith,
        Config.reference], rfl⟩

theorem witness_BytesAfterTheFirstFrameAreLost :
    reading State.reset = true ∧ frameA.length = 13 ∧ frameChunk frameA = .ok recA ∧
      (frameA ++ []).length ≤ State.reset.cfg.chunkSize ∧ (frameA ++ frameA).length ≤ State.reset.cfg.chunkSize := by
  decide

theorem witness_BytesAfterTheFirstFrameAreLost_full_chunk :
    (frameA ++ List.replicate 499 (0 : Byte)).length ≤ State.reset.cfg.chunkSize := by
  simp [-List.reduceReplicate, frameA, State.reset, State.resetWith, Config.reference]

theorem witness_IngPushEffect_no_record :
    halted.halted = true ∧ ∀ rec, State.reset.ing ≠ .push rec :=
  ⟨by decide, fun _ h => nomatch h⟩

theorem witness_IngPushEffect_closed :
    ({ pushing 0 with ingq := ⟨[], true, false⟩ } : State).halted = false ∧
      ({ pushing 0 with ingq := ⟨[], true, false⟩ } : State).ing = .push recA ∧
      ({ pushing 0 with ingq := ⟨[], true, false⟩ } : State).ingq.rxOpen = false := by decide

theorem witness_IngPushEffect_room :
    (pushing 14).halted = false ∧ (pushing 14).ing = .push recA ∧ (pushing 14).ingq.rxOpen = true ∧
      (pushing 14).ingq.buf.length < (pushing 14).cfg.ingCap := by decide

theorem witness_IngPushEffect_full :
    (pushing 15).halted = false ∧ (pushing 15).ing = .push recA ∧ (pushing 15).ingq.rxOpen = true ∧
      (pushing 15).cfg.ingCap ≤ (pushing 15).ingq.buf.length := by decide

theorem witness_EgrRecvEffect_not_receiving : halted.halted = true ∧ writing.egr ≠ .recv := by decide

theorem witness_EgrRecvEffect_takes :
    (queued 1).halted = false ∧ (queued 1).egr = .recv ∧ (queued 1).egrq.buf = recB :: [] := by decide

theorem witness_EgrRecvEffect_ends :
    ({ State.reset with egrq := ⟨[], false, true⟩ } : State).halted = false ∧
      ({ State.reset with egrq := ⟨[], false, true⟩ } : State).egr = .recv ∧
      ({ State.reset with egrq := ⟨[], false, true⟩ } : State).egrq.buf = [] ∧
      ({ State.reset with egrq := ⟨[], false, true⟩ } : State).egrq.txOpen = false := by decide

theorem witness_EgrRecvEffect_waits :
    State.reset.halted = false ∧ State.reset.egr = .recv ∧ State.reset.egrq.buf = [] ∧
      State.reset.egrq.txOpen = true := by decide

theorem witness_EgrWriteEffect_no_record :
    halted.halted = true ∧ ∀ rec, State.reset.egr ≠ .write rec :=
  ⟨by decide, fun _ h => nomatch h⟩

theorem witness_EgrWriteEffect : writing.halted = false ∧ writing.egr = .write recA := by decide

theorem witness_EgrPushEffect_no_sender :
    ({ State.reset with egrq := ⟨[], false, true⟩ } : State).egrq.txOpen = false := by decide

theorem witness_EgrPushEffect_closed :
    recA.wf = true ∧ halted.egrq.txOpen = true ∧ halted.egrq.rxOpen = false := by decide

theorem witness_EgrPushEffect_room :
    recA.wf = true ∧ (queued 14).egrq.txOpen = true ∧ (queued 14).egrq.rxOpen = true ∧
      (queued 14).egrq.buf.length < (queued 14).cfg.egrCap := by decide

theorem witness_EgrPushEffect_full :
    recA.wf = true ∧ (queued 15).egrq.txOpen = true ∧ (queued 15).egrq.rxOpen = true ∧
      (queued 15).cfg.egrCap ≤ (queued 15).egrq.buf.length := by decide

theorem witness_IngPopEffect_no_receiver :
    ({ State.reset with ingq := ⟨[], true, false⟩ } : State).ingq.rxOpen = false := by decide

theorem witness_IngPopEffect_pops : received.ingq.rxOpen = true ∧ received.ingq.buf = recA :: [recB] := by decide

theorem witness_IngPopEffect_drained :
    ({ State.reset with ingq := ⟨[], false, true⟩ } : State).ingq.rxOpen = true ∧
      ({ State.reset with ingq := ⟨[], false, true⟩ } : State).ingq.buf = [] ∧
      ({ State.reset with ingq := ⟨[], false, true⟩ } : State).ingq.txOpen = false := by decide

theorem witness_IngPopEffect_waits :
    State.reset.ingq.rxOpen = true ∧ State.reset.ingq.buf = [] ∧ State.reset.ingq.txOpen = true := by decide

theorem witness_EgrTxCloseEffect : (queued 1).egrq.txOpen = true := by decide

theorem witness_IngRxCloseEffect :
    (pushing 1).ingq.rxOpen = true ∧ (pushing 1).halted = false ∧ (pushing 1).ing = .push recA := by decide

theorem witness_SupHaltEffect_ingress : peerGone.halted = false ∧ ingDone peerGone = true := by decide

theorem witness_SupHaltEffect_egress :
    ({ State.reset with egr := .done .ok } : State).halted = false ∧
      egrDone { State.reset with egr := .done .ok } = true := by decide

theorem witness_HaltedBlockTakesNoStep :
    halted.halted = true ∧ (isIngStep .ingPush || isEgrStep .ingPush || (Instr.ingPush == .supHalt)) = true ∧
      (isIngStep .egrRecv || isEgrStep .egrRecv || (Instr.egrRecv == .supHalt)) = true ∧
      (isIngStep .supHalt || isEgrStep .supHalt || (Instr.supHalt == .supHalt)) = true := by decide

theorem witness_EndedFlowTakesNoStep :
    isIngStep (.ingRead .zero) = true ∧ ingDone peerGone = true ∧ isEgrStep (.egrWrite .writeOk) = true ∧
      egrDone { State.reset with egr := .done .ok } = true := by decide

theorem witness_FirstErrorIsReported :
    (Instr.supHalt ≠ .reset) ∧ peerGone.firstErr = some .peerDisconnected ∧
      nextOf (exec .supHalt peerGone) = some halted ∧ halted.answer ≠ .suspended := by decide

theorem witness_FirstErrorIsReported_after_clean_end :
    reading { State.reset with egr := .done .ok } = true ∧
      ({ State.reset with egr := .done .ok } : State).egr = .done .ok ∧
      ({ State.reset with egr := .done .ok } : State).firstErr = none := by decide

theorem witness_EveryInstructionRunsOrWaits :
    guardHolds .ingPush State.reset = false ∧
      (guardHolds (.egrPush recA) State.reset = true ∧ (Instr.egrPush recA).wf State.reset.cfg = true) ∧
      (guardHolds (.egrPush recTail) State.reset = true ∧ (Instr.egrPush recTail).wf State.reset.cfg = false) := by
  decide

/-- The hypotheses of every message layout: a well-formed record of the right and of another length. -/
theorem witness_ErrorMessageLayout :
    frameWf 4 ⟨0xEF, 0xBE, 0xAD, 0xDE, 0, 0, 0, 0⟩ = true ∧ frameWf 8 ⟨1, 2, 3, 4, 5, 6, 7, 8⟩ = true := by decide

theorem witness_OutputMessageLayouts :
    frameWf 2 ⟨3, 2, 0, 0, 0, 0, 0, 0⟩ = true ∧ frameWf 3 ⟨3, 2, 1, 0, 0, 0, 0, 0⟩ = true := by decide

theorem witness_InputMessageLayouts :
    frameWf 2 ⟨3, 6, 0, 0, 0, 0, 0, 0⟩ = true ∧ frameWf 1 ⟨3, 0, 0, 0, 0, 0, 0, 0⟩ = true := by decide

theorem witness_CallProcedureMessageLayout :
    frameWf 1 ⟨7, 0, 0, 0, 0, 0, 0, 0⟩ = true ∧ frameWf 0 Payload.zero = true := by decide

theorem witness_ShutterCommandIsCarriedButUnknown :
    frameWf 2 ⟨1, 2, 0, 0, 0, 0, 0, 0⟩ = true ∧ frameWf 0 Payload.zero = true ∧ reading State.reset = true := by decide

theorem witness_RequestStatusMessageLayout :
    frameWf 0 Payload.zero = true ∧ frameWf 1 ⟨7, 0, 0, 0, 0, 0, 0, 0⟩ = true := by decide

theorem witness_StatusIoMessageLayout :
    frameWf 3 ⟨2, 1, 1, 0, 0, 0, 0, 0⟩ = true ∧ frameWf 2 ⟨2, 1, 0, 0, 0, 0, 0, 0⟩ = true := by decide

theorem witness_StatusMessageLayout :
    frameWf 8 ⟨0x80, 0x51, 1, 0, 3, 0, 2, 1⟩ = true ∧ frameWf 7 ⟨1, 2, 3, 4, 5, 6, 7, 0⟩ = true := by decide

theorem witness_TimeAnnouncementMessageLayout :
    frameWf 8 ⟨0xE8, 7, 3, 1, 10, 15, 30, 5⟩ = true ∧ frameWf 7 ⟨1, 2, 3, 4, 5, 6, 7, 0⟩ = true := by decide

theorem witness_InfoMessageLayout :
    frameWf 6 ⟨2, 1, 0xD, 0xC, 0xB, 0xA, 0, 0⟩ = true ∧ frameWf 5 ⟨2, 1, 0xD, 0xC, 0xB, 0, 0, 0⟩ = true := by decide

theorem witness_PongAndPingMessageLayouts :
    frameWf 2 ⟨0xEF, 0xBE, 0, 0, 0, 0, 0, 0⟩ = true ∧ frameWf 1 ⟨0xEF, 0, 0, 0, 0, 0, 0, 0⟩ = true := by decide

theorem witness_UnknownTypesAreNonFatal :
    WireRecord.wf ⟨0, 0x1F, 5, ⟨1, 2, 3, 4, 5, 0, 0, 0⟩⟩ = true ∧ ∀ m : Message, (messageType m).code ≠ 0x1F := by
  refine ⟨by decide, fun m => ?_⟩
  cases m <;> exact of_decide_eq_true rfl

theorem witness_WrongLengthIsAMismatch :
    WireRecord.wf ⟨2, 0x08, 1, ⟨9, 0, 0, 0, 0, 0, 0, 0⟩⟩ = true ∧
      (0x08 : TypeCode) = (messageType (.setOutput 0 .on)).code ∧
      1 ≠ (encodeMessage State.reset.cfg (.setOutput 0 .on) 0).length := by decide

theorem witness_DecodeInvertsEncode : Config.reference.legal = true := by decide

theorem witness_EncodeInvertsDecode :
    recA.wf = true ∧ decodeRecord Config.reference recA = .ok (.setOutput 5 .on) := by decide

theorem witness_DecodeIgnoresAddressAndTail :
    ∀ i, i < recA.length → Payload.get ⟨5, 1, 9, 9, 9, 9, 9, 9⟩ i = recA.payload.get i := by decide

theorem witness_CodecCallsChangeNothing :
    isCodecCall (.splitCan 0x202) = true ∧
      nextOf (exec (.splitCan 0x202) State.reset) = some { State.reset with answer := .split 2 8 } := by decide

theorem witness_CanPackingIsInvertible :
    (2047 : BitVec 16).toNat < 2048 ∧ (0 : BitVec 16).toNat < 2048 ∧ (0x1E : TypeCode).toNat < (0x1F : TypeCode).toNat := by
  decide

theorem witness_StepKeepsTheBlockInvariant :
    BlockInv (State.reset.withFetchWord 104 0x01050208027C21) ∧
      (nextOf (step (State.reset.withFetchWord 104 0x01050208027C21))).map (·.ing) = some (.push recA) := by decide

theorem witness_ResetMeetsTheBlockInvariant : Config.reference.legal = true := by decide

theorem witness_FrameRowsAreReceived :
    reading State.reset = true ∧ frameWf 8 ⟨1, 2, 3, 4, 5, 6, 7, 8⟩ = true ∧ frameWf 0 Payload.zero = true := by decide

theorem witness_FrameRowAgreesWithIngRead :
    (ReadResult.chunk frameA).wf Config.reference = true ∧
      decode (.rx (.chunk frameA)) = .ok (.setOutput 2 2 ⟨5, 1, 0, 0, 0, 0, 0, 0⟩) ∧
      reading State.reset = true ∧ reading (pushing 0) = false := by decide

theorem witness_LogIsAppendedAndNeverRead :
    Instr.ingRead .ioError ≠ .reset ∧
      (nextOf (exec (.ingRead .ioError) State.reset)).map (·.log) = some [⟨.readIo, .none⟩] := by decide

theorem witness_FifoEndsHaveOwners_halt :
    Instr.supHalt ≠ .reset ∧ nextOf (exec .supHalt peerGone) = some halted ∧
      halted.ingq.txOpen ≠ peerGone.ingq.txOpen ∧ halted.egrq.rxOpen ≠ peerGone.egrq.rxOpen := by decide

theorem witness_FifoEndsHaveOwners_close :
    ((nextOf (exec .ingRxClose received)).map fun t => (t.ingq.rxOpen, received.ingq.rxOpen)) = some (false, true) ∧
      ((nextOf (exec .egrTxClose received)).map fun t => (t.egrq.txOpen, received.egrq.txOpen)) = some (false, true) := by
  decide

theorem witness_EachFlowIgnoresTheOther :
    isIngStep .ingPush = true ∧ goesOn (exec .ingPush (pushing 0)) = true ∧ isEgrStep .egrRecv = true ∧
      goesOn (exec .egrRecv (queued 1)) = true := by decide

theorem witness_SuspendedPeersAreReleased_producer :
    recA.wf = true ∧ (queued 15).halted = false ∧ (queued 15).egr = .recv ∧ 1 ≤ (queued 15).cfg.egrCap ∧
      (queued 15).egrq.txOpen = true ∧ (queued 15).egrq.rxOpen = true ∧
      (queued 15).egrq.buf.length = (queued 15).cfg.egrCap := by decide

theorem witness_SuspendedPeersAreReleased_consumer :
    (pushing 0).halted = false ∧ (pushing 0).ing = .push recA ∧ 1 ≤ (pushing 0).cfg.ingCap ∧
      (pushing 0).ingq.rxOpen = true ∧ (pushing 0).ingq.txOpen = true ∧ (pushing 0).ingq.buf = [] := by decide

theorem witness_SuspendedPushFailsOnClose_ingress :
    (pushing 15).halted = false ∧ (pushing 15).ing = .push recA ∧ (pushing 15).ingq.rxOpen = true ∧
      (pushing 15).cfg.ingCap ≤ (pushing 15).ingq.buf.length := by decide

theorem witness_SuspendedPushFailsOnClose_egress :
    recA.wf = true ∧ ({ queued 15 with ing := .done .peerDisconnected } : State).halted = false ∧
      ingDone { queued 15 with ing := .done .peerDisconnected } = true ∧
      ({ queued 15 with ing := .done .peerDisconnected } : State).egrq.txOpen = true ∧
      ({ queued 15 with ing := .done .peerDisconnected } : State).egrq.rxOpen = true ∧
      ({ queued 15 with ing := .done .peerDisconnected } : State).cfg.egrCap ≤
        ({ queued 15 with ing := .done .peerDisconnected } : State).egrq.buf.length := by decide

theorem witness_QueuedRecordsSurviveTheHalt :
    halted.ingq.rxOpen = true ∧ halted.ingq.txOpen = false ∧
      ({ halted with schedule := [.op .ingPop, .op .ingPop] } : State).schedule = List.replicate 2 (.op .ingPop) ∧
      halted.ingq.buf.length < 2 := by decide

/-- A producer, EGR and the transport take turns: the frame of the accepted record is on TX after three steps. -/
theorem witness_EgressOrderIsEndToEnd :
    (∀ x ∈ ([.op (.egrPush recA), .op .egrRecv, .op (.egrWrite .writeOk)] : List Transaction),
      x ≠ .op .reset ∧ x ≠ .op .supHalt) ∧
      (nextOf (stepsFrom 3 { State.reset with
        schedule := [.op (.egrPush recA), .op .egrRecv, .op (.egrWrite .writeOk)] })).map (·.tx) =
          some [⟨frameA, .writeOk⟩] := by decide

/-- A frame is received, pushed and popped in three steps. -/
theorem witness_IngressOrderIsEndToEnd :
    (∀ x ∈ ([.rx (.chunk frameA), .op .ingPush, .op .ingPop] : List Transaction),
      x ≠ .op .reset ∧ x ≠ .op .ingRxClose) ∧ State.reset.ingq.rxOpen = true ∧
      (nextOf (stepsFrom 3 { State.reset with
        schedule := [.rx (.chunk frameA), .op .ingPush, .op .ingPop] })).map (·.answer) =
          some (.popped recA) := by decide

end Sys2Proof.Tests
end

section
/-! SUPPORT. One outcome of an instruction, judged by its guard and its operands: it waits, runs or faults. One lemma
per shared operation and per meaning of the block, then all 42 instructions by cases. -/

namespace Sys2Proof.Machine

open Sys2Proof

/-- The outcome `o` of an execution in `s` is the one that the guard `g` and the legality `w` of the operands call for
(R16, R21, R23). -/
inductive RunsOrWaits (s : State) : Result → Bool → Bool → Prop where
  /-- The guard fails: the agent is suspended. -/
  | waits {g w : Bool} (shut : g = false) : RunsOrWaits s (suspend s) g w
  /-- The guard holds and the operands are legal: the step is taken. -/
  | runs {g w : Bool} {t : State} (open_ : g = true) (legal : w = true) (moved : t.answer ≠ .suspended) :
      RunsOrWaits s (.next t) g w
  /-- The guard holds, but the port excludes the operand (log entry 8). -/
  | faults {g w : Bool} {f : Fault} (open_ : g = true) (illegal : w = false) : RunsOrWaits s (.fault f) g w

namespace RunsOrWaits

variable {s : State} {o : Result} {g w : Bool}

theorem of_not_guard (h : RunsOrWaits s o g w) (hg : g = false) : o = .next { s with answer := .suspended } := by
  cases h with
  | waits => exact suspend_eq s
  | runs open_ => simp [hg] at open_
  | faults open_ => simp [hg] at open_

theorem of_legal (h : RunsOrWaits s o g w) (hg : g = true) (hw : w = true) :
    ∃ t, o = .next t ∧ t.answer ≠ .suspended := by
  cases h with
  | waits shut => simp [hg] at shut
  | runs _ _ moved => exact ⟨_, rfl, moved⟩
  | faults _ illegal => simp [hw] at illegal

theorem of_illegal (h : RunsOrWaits s o g w) (hg : g = true) (hw : w = false) : ∃ f, o = .fault f := by
  cases h with
  | waits shut => simp [hg] at shut
  | runs _ legal => simp [hw] at legal
  | faults => exact ⟨_, rfl⟩

/-- Legal operands never fault: the machine goes on, running or waiting. -/
theorem exists_next (h : RunsOrWaits s o g true) : ∃ t, o = .next t := by
  cases h with
  | waits => exact ⟨_, suspend_eq s⟩
  | runs => exact ⟨_, rfl⟩
  | faults _ illegal => cases illegal

end RunsOrWaits

theorem reading_eq_true_iff {s : State} : reading s = true ↔ s.halted = false ∧ s.ing = .read := by
  simp [reading]

theorem reading_eq_false {s : State} (h : s.halted = false → s.ing = .read → False) : reading s = false := by
  rw [← Bool.not_eq_true, reading_eq_true_iff]
  exact fun ⟨hl, hr⟩ => h hl hr

theorem readResult_wf_chunk_iff {c : Config} {l : List Byte} :
    (ReadResult.chunk l).wf c = true ↔ l.length ≠ 0 ∧ l.length ≤ c.chunkSize := by
  simp [ReadResult.wf, Nat.one_le_iff_ne_zero]

/-- The reception of a frame, whatever type it has (R132). -/
theorem receiveFrame_runsOrWaits (rec : WireRecord) (d : Decoded) (s : State) :
    RunsOrWaits s (receiveFrame rec d s) (reading s) rec.wf := by
  unfold receiveFrame
  split
  · next hl hr =>
    have hg : reading s = true := reading_eq_true_iff.2 ⟨hl, hr⟩
    split
    · next hw => exact .runs hg hw (by simp)
    · next hw => exact .faults hg (by simpa using hw)
  · next h => exact .waits (reading_eq_false h)

/-- A chunk at the reading framer: the two length checks are exactly the type of R23. -/
theorem readChunk_runsOrWaits (l : List Byte) {s : State} (hg : reading s = true) :
    RunsOrWaits s (readChunk l s) (reading s) ((ReadResult.chunk l).wf s.cfg) := by
  unfold readChunk
  split
  · next h0 => exact .faults hg (by simp [ReadResult.wf, h0])
  · next h0 =>
    split
    · next hlong => exact .faults hg (by simp [ReadResult.wf, hlong])
    · next hlong =>
      have hw := readResult_wf_chunk_iff.2 ⟨h0, Nat.le_of_not_lt hlong⟩
      split
      · exact .runs hg hw (by simp)
      · exact .runs hg hw (by simp)

theorem execIngRead_runsOrWaits (r : ReadResult) (s : State) :
    RunsOrWaits s (execIngRead r s) (reading s) (r.wf s.cfg) := by
  unfold execIngRead
  split
  · next hl hr =>
    have hg : reading s = true := reading_eq_true_iff.2 ⟨hl, hr⟩
    cases r with
    | zero => exact .runs hg rfl (by simp)
    | ioError => exact .runs hg rfl (by simp)
    | chunk l => exact readChunk_runsOrWaits l hg
  · next h => exact .waits (reading_eq_false h)

/-- R142: the guard is closed or room, and the meaning asks for closed first. -/
theorem execIngPush_runsOrWaits (s : State) : RunsOrWaits s (execIngPush s) (guardHolds .ingPush s) true := by
  unfold execIngPush
  split
  · next rec hl hp =>
    split
    · next ho => exact .runs (by simp [guardHolds, hp, hl, ho]) rfl (by simp)
    · next ho =>
      split
      · next hr => exact .runs (by simpa [guardHolds, hp, hl, ho, ingqHasRoom] using hr) rfl (by simp)
      · next hr => exact .waits (by simpa [guardHolds, hp, hl, ho, ingqHasRoom] using hr)
  · next h =>
    refine .waits ?_
    cases hp : s.ing with
    | push rec =>
      have hl : s.halted = true := by simpa using fun hl => h rec hl hp
      simp [guardHolds, hp, hl]
    | read => simp [guardHolds, hp]
    | done e => simp [guardHolds, hp]

/-- R161: buffered records first, then the clean end. -/
theorem execEgrRecv_runsOrWaits (s : State) : RunsOrWaits s (execEgrRecv s) (guardHolds .egrRecv s) true := by
  unfold execEgrRecv
  split
  · next hl he =>
    split
    · next rec rest hb => exact .runs (by simp [guardHolds, hl, he, hb]) rfl (by simp)
    · next hb =>
      split
      · next ho => exact .runs (by simp [guardHolds, hl, he, ho]) rfl (by simp)
      · next ho => exact .waits (by simp [guardHolds, hb, ho])
  · next h =>
    refine .waits ?_
    cases hl : s.halted with
    | true => simp [guardHolds, hl]
    | false =>
      have he : s.egr ≠ .recv := h hl
      simp [guardHolds, he]

theorem execEgrWrite_runsOrWaits (w : WriteResult) (s : State) :
    RunsOrWaits s (execEgrWrite w s) (guardHolds (.egrWrite w) s) true := by
  unfold execEgrWrite
  split
  · next rec hl he =>
    have hg : guardHolds (.egrWrite w) s = true := by simp [guardHolds, hl, he]
    cases w with
    | writeOk => exact .runs hg rfl (by simp)
    | writeError => exact .runs hg rfl (by simp)
  · next h =>
    refine .waits ?_
    cases he : s.egr with
    | write rec => simpa [guardHolds, he] using fun hl => h rec hl he
    | recv => simp [guardHolds, he]
    | done r => simp [guardHolds, he]

/-- The guard of EGR_PUSH as its meaning asks for it (R184). -/
theorem guardHolds_egrPush_iff {rec : WireRecord} {s : State} :
    guardHolds (.egrPush rec) s = true ↔
      s.egrq.txOpen = true ∧ (s.egrq.rxOpen = false ∨ egrqHasRoom s = true) := by
  simp [guardHolds, egrqHasRoom]

theorem execEgrPush_runsOrWaits (rec : WireRecord) (s : State) :
    RunsOrWaits s (execEgrPush rec s) (guardHolds (.egrPush rec) s) rec.wf := by
  unfold execEgrPush
  split
  · next h =>
    have hg : guardHolds (.egrPush rec) s = true := guardHolds_egrPush_iff.2 h
    split
    · next hw =>
      split
      · exact .runs hg hw (by simp)
      · exact .runs hg hw (by simp)
    · next hw => exact .faults hg (by simpa using hw)
  · next h => exact .waits (by rwa [← guardHolds_egrPush_iff (rec := rec), Bool.not_eq_true] at h)

theorem execIngPop_runsOrWaits (s : State) : RunsOrWaits s (execIngPop s) (guardHolds .ingPop s) true := by
  unfold execIngPop
  split
  · next ho =>
    split
    · next rec rest hb => exact .runs (by simp [guardHolds, ho, hb]) rfl (by simp)
    · next hb =>
      split
      · next hx => exact .runs (by simp [guardHolds, ho, hx]) rfl (by simp)
      · next hx => exact .waits (by simp [guardHolds, hb, hx])
  · next ho => exact .waits (by simp [guardHolds, ho])

theorem execEgrTxClose_runsOrWaits (s : State) : RunsOrWaits s (execEgrTxClose s) s.egrq.txOpen true := by
  unfold execEgrTxClose
  split
  · next ho => exact .runs ho rfl (by simp)
  · next ho => exact .waits (by simpa using ho)

theorem execIngRxClose_runsOrWaits (s : State) : RunsOrWaits s (execIngRxClose s) s.ingq.rxOpen true := by
  unfold execIngRxClose
  split
  · next ho => exact .runs ho rfl (by simp)
  · next ho => exact .waits (by simpa using ho)

theorem execSupHalt_runsOrWaits (s : State) : RunsOrWaits s (execSupHalt s) (guardHolds .supHalt s) true := by
  unfold execSupHalt
  split
  · next h => exact .runs (by simpa [guardHolds] using h) rfl (by simp)
  · next h => exact .waits (by simpa [guardHolds] using h)

theorem execDecode_runsOrWaits (r : WireRecord) (s : State) : RunsOrWaits s (execDecode r s) true r.wf := by
  unfold execDecode
  split
  · next hw => exact .runs rfl hw (by simp)
  · next hw => exact .faults rfl (by simpa using hw)

theorem receiveCan_runsOrWaits (m : MsgType) (a : DevAddr) (s : State) :
    RunsOrWaits s (receiveCan m a s) true true := .runs rfl rfl (by simp)

/-- Every instruction does what its guard and its operands call for. -/
theorem exec_runsOrWaits (i : Instr) (s : State) : RunsOrWaits s (exec i s) (guardHolds i s) (i.wf s.cfg) := by
  cases i with
  | error | outputChanged | inputChanged | setOutput | triggerInput | callProcedure | shutterCommand | requestStatus
  | statusIo | status | timeAnnouncement | info | pong | ping => exact receiveFrame_runsOrWaits _ _ s
  | errorCan | outputChangedCan | inputChangedCan | setOutputCan | triggerInputCan | callProcedureCan
  | shutterCommandCan | requestStatusCan | statusIoCan | statusCan | timeAnnouncementCan | infoCan | pongCan
  | pingCan => exact receiveCan_runsOrWaits _ _ s
  | ingRead r => exact execIngRead_runsOrWaits r s
  | ingPush => exact execIngPush_runsOrWaits s
  | egrRecv => exact execEgrRecv_runsOrWaits s
  | egrWrite w => exact execEgrWrite_runsOrWaits w s
  | egrPush rec => exact execEgrPush_runsOrWaits rec s
  | ingPop => exact execIngPop_runsOrWaits s
  | egrTxClose => exact execEgrTxClose_runsOrWaits s
  | ingRxClose => exact execIngRxClose_runsOrWaits s
  | supHalt => exact execSupHalt_runsOrWaits s
  | decode r => exact execDecode_runsOrWaits r s
  | encode | toCan | splitCan | reset => exact .runs rfl rfl (by simp)

/-- An instruction whose operands its port admits never stops the machine. -/
theorem exec_exists_next {i : Instr} {s : State} (h : i.wf s.cfg = true) : ∃ t, exec i s = .next t :=
  (h ▸ exec_runsOrWaits i s).exists_next

/-- Settles O26: the three ways of `RunsOrWaits`, read off for every instruction. -/
theorem everyInstructionRunsOrWaits : Obligations.EveryInstructionRunsOrWaits := by
  intro i s
  have h := exec_runsOrWaits i s
  exact ⟨h.of_not_guard, h.of_legal, h.of_illegal⟩

end Sys2Proof.Machine
end

section
/-! SUPPORT. The decoder gives well-formed instructions: what the framer returns meets the record invariant (R21, R131),
and each row carries the record's operands. -/

namespace Sys2Proof

/-- The payload slot of a received frame, as a list. -/
theorem payloadOfFrame_toList (c : List Byte) (n : Nat) :
    (payloadOfFrame c n).toList = (List.range 8).map fun i => if i < n then byteAt c (5 + i) else 0 := rfl

/-- The framer writes zeros at and beyond the length (R93, R131). -/
theorem zeroTail_payloadOfFrame (c : List Byte) (n : Nat) : zeroTail n (payloadOfFrame c n) = true := by
  rw [zeroTail, payloadOfFrame_toList, List.all_eq_true]
  intro b hb
  obtain ⟨i, hi, rfl⟩ := List.mem_drop_iff_getElem.1 hb
  simp

theorem recordOfFrame_wf {c : List Byte} (h : (byteAt c 4).toNat ≤ 8) : (recordOfFrame c).wf = true := by
  simp [WireRecord.wf, recordOfFrame, h, zeroTail_payloadOfFrame]

/-- Every record the framer returns meets the invariant of R21 (R131). -/
theorem frameChunk_ok_wf {c : List Byte} {r : WireRecord} (h : frameChunk c = .ok r) : r.wf = true := by
  unfold frameChunk at h
  split_ifs at h with _ _ _ _ hlen
  cases h
  exact recordOfFrame_wf (Nat.le_of_not_lt hlen)

/-- A FRAME13 row is well-formed exactly when its length and payload are. -/
@[simp] theorem frameInstr_wf (c : Config) (a : DevAddr) (n : Nat) (p : Payload) (t : MsgType) :
    (frameInstr a n p t).wf c = frameWf n p := by
  cases t <;> rfl

@[simp] theorem canInstr_wf (c : Config) (a : DevAddr) (t : MsgType) : (canInstr a t).wf c = true := by
  cases t <;> rfl

theorem decodeRecordRow_ok {r : WireRecord} {i : Instr} (h : decodeRecordRow r = .ok i) :
    ∃ t, i = frameInstr r.addr r.length r.payload t := by
  unfold decodeRecordRow at h
  split at h
  · next t _ =>
    cases h
    exact ⟨t, rfl⟩
  · cases h

theorem decodeChunk_ok {l : List Byte} {i : Instr} (h : decodeChunk l = .ok i) :
    ∃ r t, frameChunk l = .ok r ∧ i = frameInstr r.addr r.length r.payload t := by
  unfold decodeChunk at h
  split at h
  · next r hr =>
    obtain ⟨t, ht⟩ := decodeRecordRow_ok h
    exact ⟨r, t, hr, ht⟩
  · cases h

theorem decodeCan_ok {w : BitVec 16} {i : Instr} (h : decodeCan w = .ok i) : ∃ t, i = canInstr (canFields w).1 t := by
  unfold decodeCan at h
  split at h
  · next t _ =>
    cases h
    exact ⟨t, rfl⟩
  · cases h

/-- A transaction that its port admits decodes to an instruction with legal operands. -/
theorem decode_wf {c : Config} {t : Transaction} {i : Instr} (hw : t.wf c = true) (h : decode t = .ok i) :
    i.wf c = true := by
  cases t with
  | rx r =>
    cases r with
    | chunk l =>
      obtain ⟨r, m, hr, rfl⟩ := decodeChunk_ok h
      rw [frameInstr_wf]
      exact frameChunk_ok_wf hr
    | zero => cases h; rfl
    | ioError => cases h; rfl
  | can w =>
    obtain ⟨m, rfl⟩ := decodeCan_ok h
    exact canInstr_wf c _ m
  | op j => cases h; exact hw

end Sys2Proof
end

section
/-! SUPPORT. The step as fetch, execution and requeueing. -/

namespace Sys2Proof.Machine

open Sys2Proof

/-- A legal transaction that decodes is run as the instruction it decodes to. -/
theorem instrOf_of_decode {c : Config} {t : Transaction} {i : Instr} (hw : t.wf c = true) (h : decode t = .ok i) :
    instrOf c t = i := by
  cases t with
  | rx r =>
    have hr : r.wf c = true := hw
    simp [instrOf, hr, h]
  | can w => simp [instrOf, h]
  | op j => cases h; rfl

/-- The step tries the transaction at the head of the schedule. -/
theorem step_of_schedule {s : State} {t : Transaction} {rest : List Transaction} (h : s.schedule = t :: rest) :
    step s = settleStep t (exec (instrOf s.cfg t) { s with schedule := rest }) := by
  simp [step, h]

theorem requeue_of_suspended {t : Transaction} {u : State} (h : u.answer = .suspended) :
    requeue t u = { u with schedule := u.schedule ++ [t] } := by
  simp [requeue, h]

theorem requeue_of_not_suspended {t : Transaction} {u : State} (h : u.answer ≠ .suspended) : requeue t u = u := by
  simp [requeue, h]

/-- Settles O3: a legal decoded instruction has a next state (`exec_exists_next`), and the step is its requeueing. -/
theorem stepRunsTheDecodedInstruction : Obligations.StepRunsTheDecodedInstruction := by
  refine ⟨fun s t rest i hs hw hd => ?_, fun s rest i f hs hf => ?_⟩
  · obtain ⟨u, hu⟩ := exec_exists_next (s := { s with schedule := rest }) (decode_wf hw hd)
    have hstep : step s = .next (requeue t u) := by
      rw [step_of_schedule hs, instrOf_of_decode hw hd, hu]
      rfl
    refine ⟨u, hu, fun hrun => ?_, fun hwait => ?_⟩
    · rw [hstep, requeue_of_not_suspended hrun]
    · rw [hstep, requeue_of_suspended hwait]
  · rw [step_of_schedule hs]
    exact congrArg (settleStep (.op i)) hf

end Sys2Proof.Machine
end

section
/-! SUPPORT. The invariant of the block: reset meets it, and every `Move` keeps it, one lemma per part. -/

namespace Sys2Proof.Machine

open Sys2Proof

variable {i : Instr} {s t : State}

/-! ## Records and FIFOs (R21, R182, R190) -/

/-- The four places of a record (R26, R29). -/
theorem mem_heldRecords_iff {r : WireRecord} :
    r ∈ heldRecords s ↔ s.ing = .push r ∨ r ∈ s.ingq.buf ∨ s.egr = .write r ∨ r ∈ s.egrq.buf := by
  unfold heldRecords
  cases s.ing <;> cases s.egr <;> simp [eq_comm]

/-- A step invents no record: what is held after it was held before, or comes well-formed from a port (R131, R184). -/
theorem Move.held_or_wf {r : WireRecord} (m : Move i s t) (hr : r ∈ heldRecords t) :
    r ∈ heldRecords s ∨ r.wf = true := by
  rw [mem_heldRecords_iff] at hr ⊢
  cases m with
  | latches rec a _ _ _ legal =>
    obtain hlatch | hrest := hr
    · cases hlatch
      exact .inr (legal.elim id fun ⟨_, hc⟩ => frameChunk_ok_wf hc)
    · exact .inl (.inr hrest)
  | accepts rec _ _ legal =>
    simp only [Fifo.push_buf, List.mem_append, List.mem_singleton, ← or_assoc] at hr
    obtain hold | rfl := hr
    · exact .inl (by simpa only [or_assoc] using hold)
    · exact .inr legal
  | queues rec _ _ held =>
    simp only [Fifo.push_buf, List.mem_append, List.mem_singleton] at hr
    obtain hlatch | (hbuf | rfl) | hegr := hr
    · cases hlatch
    · exact .inl (.inr (.inl hbuf))
    · exact .inl (.inl held)
    · exact .inl (.inr (.inr hegr))
  | takes rec rest _ _ _ buf =>
    obtain hing | hingq | hlatch | hbuf := hr
    · exact .inl (.inl hing)
    · exact .inl (.inr (.inl hingq))
    · cases hlatch
      simp [buf]
    · exact .inl (.inr (.inr (.inr (List.mem_of_mem_tail hbuf))))
  | pops => exact .inl (hr.imp_right (·.imp_left List.mem_of_mem_tail))
  | peerGone | receiverGone => exact .inl (.inr (hr.resolve_left nofun))
  | endsCleanly | writes | writeFails =>
    exact .inl (hr.imp_right (·.imp_right fun hegr => .inr (hegr.resolve_left nofun)))
  | consumerGone => exact .inl (hr.imp_right fun hrest => .inr (hrest.resolve_left nofun))
  | halts => exact .inl (hr.imp_right (·.imp_right (·.imp_right nofun)))
  | resets => simp at hr
  | waits | discards | readFails | refusesPush | drains | senderGone | answers => exact .inl hr

/-- The parameters are never written (R8). -/
theorem Move.cfg_eq (m : Move i s t) : t.cfg = s.cfg := by
  cases m <;> rfl

/-- A push happens only below the capacity, and every other step leaves or shortens the buffers (R182). -/
theorem Move.fifosBounded (m : Move i s t) (h : FifosBounded s) : FifosBounded t := by
  obtain ⟨hing, hegr⟩ := h
  cases m with
  | queues rec _ _ _ _ room => exact ⟨by simpa using room, hegr⟩
  | accepts rec _ _ _ _ room => exact ⟨hing, by simpa using room⟩
  | takes => exact ⟨hing, by simp only [Fifo.pop_buf, List.length_tail]; omega⟩
  | pops => exact ⟨by simp only [Fifo.pop_buf, List.length_tail]; omega, hegr⟩
  | consumerGone => exact ⟨by simp, hegr⟩
  | halts => exact ⟨hing, by simp⟩
  | resets => exact ⟨by simp, by simp⟩
  | _ => exact ⟨hing, hegr⟩

/-- Only an open FIFO is pushed, and closing the receiver empties it (R190). -/
theorem Move.closedIsEmpty (m : Move i s t) (h : ClosedIsEmpty s) : ClosedIsEmpty t := by
  cases m with
  | queues rec _ _ _ open_ => simp [ClosedIsEmpty, open_]
  | pops rec rest _ open_ => simp [ClosedIsEmpty, open_]
  | consumerGone => simp [ClosedIsEmpty]
  | resets => simp [ClosedIsEmpty]
  | _ => exact h

/-! ## Phases, first error and halt (R27, R28, R331, R32, R352) -/

theorem Move.phasesLegal (m : Move i s t) (h : PhasesLegal s) : PhasesLegal t := by
  obtain ⟨hing, hpeer, hrecv⟩ := h
  cases m with
  | latches | peerGone | queues | receiverGone => exact ⟨by simp, hpeer, hrecv⟩
  | takes | endsCleanly | writes | writeFails => exact ⟨hing, by simp, by simp⟩
  | resets => simp [PhasesLegal]
  | _ => exact ⟨hing, hpeer, hrecv⟩

/-- While ING has not ended, only EGR can have set `first_err` (R331). -/
theorem firstErr_of_ing_live (h : FirstErrLegal s) (live : ingDone s = false) :
    s.firstErr = none ∨ s.firstErr = some .writeFailed := by
  obtain ⟨-, hpeer, hrecv, -⟩ := h
  match hf : s.firstErr with
  | none => exact .inl rfl
  | some .writeFailed => exact .inr rfl
  | some .peerDisconnected => simp [ingDone, hpeer hf] at live
  | some .ingressReceiverClosed => simp [ingDone, hrecv hf] at live

/-- A flow that ends was live, so `first_err` names the other flow or is set now (R331). -/
theorem Move.firstErrLegal (m : Move i s t) (h : FirstErrLegal s) : FirstErrLegal t := by
  have hing := firstErr_of_ing_live h
  obtain ⟨hnone, hpeer, hrecv, hwrite⟩ := id h
  cases m with
  | latches _ _ _ _ phase | queues _ _ _ phase | peerGone _ _ phase | receiverGone _ _ _ phase =>
    obtain hf | hf := hing (by simp [ingDone, phase])
    · simp [FirstErrLegal, ingDone, hf, hnone hf]
    · simp [FirstErrLegal, ingDone, hf, hwrite hf]
  | takes _ _ _ _ phase | endsCleanly _ _ phase | writes _ _ _ phase =>
    have hf : s.firstErr ≠ some .writeFailed := fun hf => by simp [hwrite hf] at phase
    exact ⟨fun hn => ⟨(hnone hn).1, by simp⟩, hpeer, hrecv, fun hw => absurd hw hf⟩
  | writeFails =>
    refine ⟨by simp, fun hp => hpeer ?_, fun hr => hrecv ?_, fun _ => rfl⟩
    · simpa [-Option.or_some, Option.or_eq_some_iff] using hp
    · simpa [-Option.or_some, Option.or_eq_some_iff] using hr
  | resets => simp [FirstErrLegal, ingDone]
  | _ => exact h

/-- The agents of the block move only while it is not halted, and EGR_PUSH finds its receiver only then (R32, R191). -/
theorem Move.haltLegal (m : Move i s t) (h : HaltLegal s) : HaltLegal t := by
  obtain ⟨hbefore, hafter⟩ := id h
  cases m with
  | resets => simp [HaltLegal]
  | halts _ _ ended => exact ⟨nofun, fun _ => ⟨rfl, rfl, rfl, rfl, ended⟩⟩
  | latches _ _ _ live | peerGone _ live | queues _ _ live | receiverGone _ _ live | takes _ _ _ live
  | endsCleanly _ live | writes _ _ live | writeFails _ _ live =>
    exact ⟨fun _ => hbefore live, fun hh => absurd (hh.symm.trans live) nofun⟩
  | accepts _ _ _ _ open_ =>
    have live : s.halted ≠ true := fun hh => by
      obtain ⟨-, -, hrx, -⟩ := hafter hh
      simp [open_] at hrx
    exact ⟨hbefore, fun hh => absurd hh live⟩
  | _ => exact h

/-! ## The invariant of the block -/

/-- Every move keeps the invariant. -/
theorem Move.blockInv (m : Move i s t) (h : BlockInv s) : BlockInv t := by
  obtain ⟨hcfg, hrec, hfifo, hphase, herr, hhalt, hclosed⟩ := h
  exact ⟨m.cfg_eq ▸ hcfg, fun r hr => (m.held_or_wf hr).elim (hrec r) id, m.fifosBounded hfifo, m.phasesLegal hphase,
    m.firstErrLegal herr, m.haltLegal hhalt, m.closedIsEmpty hclosed⟩

/-- Settles O49: a step is a move between two changes of the schedule, which the invariant does not mention. -/
theorem stepKeepsTheBlockInvariant : Obligations.StepKeepsTheBlockInvariant := by
  intro s t h hstep
  obtain ⟨-, rfl⟩ | ⟨x, rest, u, -, m, rfl⟩ := step_move hstep
  · exact h
  · rw [requeue_eq]
    exact m.blockInv h

/-- Settles O50: after reset nothing is held, no flow has ended and every FIFO end is there. -/
theorem resetMeetsTheBlockInvariant : Obligations.ResetMeetsTheBlockInvariant := by
  intro c hc
  have hrec : RecordsLegal (State.resetWith c) := by simp [RecordsLegal, heldRecords, State.resetWith, Fifo.fresh]
  have hfifo : FifosBounded (State.resetWith c) := ⟨Nat.zero_le _, Nat.zero_le _⟩
  have hphase : PhasesLegal (State.resetWith c) := by simp [PhasesLegal, State.resetWith]
  have herr : FirstErrLegal (State.resetWith c) := by simp [FirstErrLegal, ingDone, State.resetWith]
  have hhalt : HaltLegal (State.resetWith c) := by simp [HaltLegal, State.resetWith, Fifo.fresh]
  exact ⟨hc, hrec, hfifo, hphase, herr, hhalt, fun _ => rfl⟩

/-- Settles O25 (R38). -/
theorem resetStateValues : Obligations.ResetStateValues :=
  ⟨rfl, rfl, rfl, rfl, rfl, rfl, rfl, rfl⟩

end Sys2Proof.Machine
end

section
/-! SUPPORT. The halted block takes no step (R32), and each FIFO flag has one instruction that clears it (R31). -/

namespace Sys2Proof.Machine

open Sys2Proof

variable {i : Instr} {s t : State}

/-- Every operation of the block's agents asks in its guard that the block is not halted. -/
theorem guardHolds_of_halted (hs : s.halted = true) (hi : (isIngStep i || isEgrStep i || (i == .supHalt)) = true) :
    guardHolds i s = false := by
  cases i with
  | error | outputChanged | inputChanged | setOutput | triggerInput | callProcedure | shutterCommand | requestStatus
  | statusIo | status | timeAnnouncement | info | pong | ping | ingRead => simp [guardHolds, reading, hs]
  | ingPush => cases hp : s.ing <;> simp [guardHolds, hp, hs]
  | egrRecv | supHalt => simp [guardHolds, hs]
  | egrWrite => cases he : s.egr <;> simp [guardHolds, he, hs]
  | _ => simp [isIngStep, isEgrStep] at hi

/-- Settles O21: no guard holds, and an instruction whose guard fails waits (`exec_runsOrWaits`). -/
theorem haltedBlockTakesNoStep : Obligations.HaltedBlockTakesNoStep := fun i s hs hi =>
  (exec_runsOrWaits i s).of_not_guard (guardHolds_of_halted hs hi)

theorem Move.ingq_txOpen (m : Move i s t) (hi : i ≠ .reset) (hne : t.ingq.txOpen ≠ s.ingq.txOpen) :
    i = .supHalt ∧ t.ingq.txOpen = false := by
  cases m with
  | halts instr => exact ⟨instr, rfl⟩
  | resets instr => exact absurd instr hi
  | _ => exact absurd rfl hne

theorem Move.ingq_rxOpen (m : Move i s t) (hi : i ≠ .reset) (hne : t.ingq.rxOpen ≠ s.ingq.rxOpen) :
    i = .ingRxClose ∧ t.ingq.rxOpen = false := by
  cases m with
  | consumerGone instr => exact ⟨instr, rfl⟩
  | resets instr => exact absurd instr hi
  | _ => exact absurd rfl hne

theorem Move.egrq_txOpen (m : Move i s t) (hi : i ≠ .reset) (hne : t.egrq.txOpen ≠ s.egrq.txOpen) :
    i = .egrTxClose ∧ t.egrq.txOpen = false := by
  cases m with
  | senderGone instr => exact ⟨instr, rfl⟩
  | resets instr => exact absurd instr hi
  | _ => exact absurd rfl hne

theorem Move.egrq_rxOpen (m : Move i s t) (hi : i ≠ .reset) (hne : t.egrq.rxOpen ≠ s.egrq.rxOpen) :
    i = .supHalt ∧ t.egrq.rxOpen = false := by
  cases m with
  | halts instr => exact ⟨instr, rfl⟩
  | resets instr => exact absurd instr hi
  | _ => exact absurd rfl hne

/-- Settles O54: of the moves but the reset one writes each flag. -/
theorem fifoEndsHaveOwners : Obligations.FifoEndsHaveOwners := by
  intro i s t hi h
  have m := exec_move h
  exact ⟨m.ingq_txOpen hi, m.ingq_rxOpen hi, m.egrq_txOpen hi, m.egrq_rxOpen hi⟩

end Sys2Proof.Machine
end

section
/-! SUPPORT. LOG (R33, R331): a move appends at most one entry, and no meaning but RESET's reads what LOG
holds, shown by running it with LOG empty. -/

namespace Sys2Proof.Machine

open Sys2Proof

variable {i : Instr} {s t : State}

/-- Every move but the reset appends at most one entry. -/
theorem Move.log_append (m : Move i s t) (hi : i ≠ .reset) :
    ∃ k : List LogEvent, k.length ≤ 1 ∧ t.log = s.log ++ k := by
  cases m with
  | discards | readFails | peerGone | receiverGone | writeFails | halts => exact ⟨[_], by simp, rfl⟩
  | resets instr => exact absurd instr hi
  | _ => exact ⟨[], by simp, by simp⟩

/-- The state with another LOG. -/
def State.withLog (l : List LogEvent) (s : State) : State := { s with log := l }

@[simp] theorem withLog_cfg (l : List LogEvent) (s : State) : (s.withLog l).cfg = s.cfg := rfl
@[simp] theorem withLog_ing (l : List LogEvent) (s : State) : (s.withLog l).ing = s.ing := rfl
@[simp] theorem withLog_egr (l : List LogEvent) (s : State) : (s.withLog l).egr = s.egr := rfl
@[simp] theorem withLog_ingq (l : List LogEvent) (s : State) : (s.withLog l).ingq = s.ingq := rfl
@[simp] theorem withLog_egrq (l : List LogEvent) (s : State) : (s.withLog l).egrq = s.egrq := rfl
@[simp] theorem withLog_halted (l : List LogEvent) (s : State) : (s.withLog l).halted = s.halted := rfl
@[simp] theorem withLog_firstErr (l : List LogEvent) (s : State) : (s.withLog l).firstErr = s.firstErr := rfl
@[simp] theorem withLog_result (l : List LogEvent) (s : State) : (s.withLog l).result = s.result := rfl
@[simp] theorem withLog_log (l : List LogEvent) (s : State) : (s.withLog l).log = l := rfl
@[simp] theorem withLog_tx (l : List LogEvent) (s : State) : (s.withLog l).tx = s.tx := rfl
@[simp] theorem withLog_answer (l : List LogEvent) (s : State) : (s.withLog l).answer = s.answer := rfl
@[simp] theorem withLog_schedule (l : List LogEvent) (s : State) : (s.withLog l).schedule = s.schedule := rfl

/-! The guards and the result of the block do not look at LOG. -/

@[simp] theorem ingDone_withLog (l : List LogEvent) (s : State) : ingDone (s.withLog l) = ingDone s := rfl
@[simp] theorem egrDone_withLog (l : List LogEvent) (s : State) : egrDone (s.withLog l) = egrDone s := rfl
@[simp] theorem ingqHasRoom_withLog (l : List LogEvent) (s : State) : ingqHasRoom (s.withLog l) = ingqHasRoom s := rfl
@[simp] theorem egrqHasRoom_withLog (l : List LogEvent) (s : State) : egrqHasRoom (s.withLog l) = egrqHasRoom s := rfl
@[simp] theorem blockResult_withLog (l : List LogEvent) (s : State) : blockResult (s.withLog l) = blockResult s := rfl

/-! Replacing LOG commutes with the shared operations, below the entry they append. -/

@[simp] theorem withLog_withLog (l l' : List LogEvent) (s : State) : (s.withLog l).withLog l' = s.withLog l' := rfl

@[simp] theorem withLog_self (s : State) : s.withLog s.log = s := rfl

@[simp] theorem withLog_mk (c : Config) (p : IngPhase) (q : EgrPhase) (f g : Fifo) (b : Bool) (e : Option FlowErr)
    (r : Option FlowResult) (l l' : List LogEvent) (x : List TxFrame) (a : Answer) (y : List Transaction) :
    State.withLog l' ⟨c, p, q, f, g, b, e, r, l, x, a, y⟩ = ⟨c, p, q, f, g, b, e, r, l', x, a, y⟩ := rfl

@[simp] theorem withLog_answering (a : Answer) (l : List LogEvent) (s : State) :
    (answering a s).withLog l = answering a (s.withLog l) := rfl

@[simp] theorem withLog_latch (r : WireRecord) (a : Answer) (l : List LogEvent) (s : State) :
    (latch r a s).withLog l = latch r a (s.withLog l) := rfl

@[simp] theorem withLog_present (r : WireRecord) (w : WriteResult) (l : List LogEvent) (s : State) :
    (present r w s).withLog l = present r w (s.withLog l) := rfl

@[simp] theorem withLog_raise (e : Event) (i : Info) (l : List LogEvent) (s : State) :
    (raise e i s).withLog (l ++ [⟨e, i⟩]) = raise e i (s.withLog l) := rfl

@[simp] theorem withLog_endFlow (f : FlowErr) (l : List LogEvent) (s : State) :
    (endFlow f s).withLog (l ++ [⟨flowEvent f, .none⟩]) = endFlow f (s.withLog l) := by
  cases f <;> rfl

/-- The outcome with `l` before the entries of its LOG. -/
def underLog (l : List LogEvent) : Result → Result
  | .next t => .next (t.withLog (l ++ t.log))
  | .fault f => .fault f
  | .refused r => .refused r

@[simp] theorem underLog_next (l : List LogEvent) (t : State) :
    underLog l (.next t) = .next (t.withLog (l ++ t.log)) := rfl

@[simp] theorem underLog_fault (l : List LogEvent) (f : Fault) : underLog l (.fault f) = .fault f := rfl

@[simp] theorem underLog_suspend (s : State) : underLog s.log (suspend (s.withLog [])) = suspend s := by
  simp [suspend]

/-! No meaning but RESET's reads LOG: each does in every state what it does with LOG empty, under the entries there
were. -/

theorem receiveFrame_underLog (rec : WireRecord) (d : Decoded) (s : State) :
    underLog s.log (receiveFrame rec d (s.withLog [])) = receiveFrame rec d s := by
  unfold receiveFrame
  simp only [withLog_halted, withLog_ing]
  split
  · by_cases hw : rec.wf <;> simp [hw]
  · exact underLog_suspend s

theorem readChunk_underLog (c : List Byte) (s : State) :
    underLog s.log (readChunk c (s.withLog [])) = readChunk c s := by
  unfold readChunk
  by_cases hempty : c.length = 0
  · simp [hempty]
  by_cases hlong : s.cfg.chunkSize < c.length
  · simp [hempty, hlong]
  cases frameChunk c <;> simp [hempty, hlong]

theorem execIngRead_underLog (r : ReadResult) (s : State) :
    underLog s.log (execIngRead r (s.withLog [])) = execIngRead r s := by
  unfold execIngRead
  simp only [withLog_halted, withLog_ing]
  split
  · cases r with
    | zero => simp
    | ioError => simp
    | chunk c => exact readChunk_underLog c s
  · exact underLog_suspend s

theorem execIngPush_underLog (s : State) : underLog s.log (execIngPush (s.withLog [])) = execIngPush s := by
  unfold execIngPush
  simp only [withLog_halted, withLog_ing]
  split
  · by_cases hopen : s.ingq.rxOpen = false
    · simp [hopen]
    by_cases hroom : ingqHasRoom s <;> simp [hopen, hroom]
  · exact underLog_suspend s

theorem execEgrRecv_underLog (s : State) : underLog s.log (execEgrRecv (s.withLog [])) = execEgrRecv s := by
  unfold execEgrRecv
  simp only [withLog_halted, withLog_egr]
  split
  · cases hbuf : s.egrq.buf with
    | cons => simp [hbuf]
    | nil => by_cases hopen : s.egrq.txOpen = false <;> simp [hbuf, hopen]
  · exact underLog_suspend s

theorem execEgrWrite_underLog (w : WriteResult) (s : State) :
    underLog s.log (execEgrWrite w (s.withLog [])) = execEgrWrite w s := by
  unfold execEgrWrite
  simp only [withLog_halted, withLog_egr]
  split
  · cases w <;> simp
  · exact underLog_suspend s

theorem execEgrPush_underLog (rec : WireRecord) (s : State) :
    underLog s.log (execEgrPush rec (s.withLog [])) = execEgrPush rec s := by
  unfold execEgrPush
  by_cases hguard : s.egrq.txOpen = true ∧ (s.egrq.rxOpen = false ∨ egrqHasRoom s = true)
  · obtain ⟨hsender, hslot⟩ := hguard
    by_cases hw : rec.wf
    · by_cases hopen : s.egrq.rxOpen = false
      · simp [hsender, hw, hopen]
      · simp [hsender, hw, hopen, hslot.resolve_left hopen]
    · simp [hsender, hslot, hw]
  · simp [hguard]

theorem execIngPop_underLog (s : State) : underLog s.log (execIngPop (s.withLog [])) = execIngPop s := by
  unfold execIngPop
  by_cases hopen : s.ingq.rxOpen
  · cases hbuf : s.ingq.buf with
    | cons => simp [hopen, hbuf]
    | nil => by_cases hend : s.ingq.txOpen = false <;> simp [hopen, hbuf, hend]
  · simp [hopen]

theorem execEgrTxClose_underLog (s : State) : underLog s.log (execEgrTxClose (s.withLog [])) = execEgrTxClose s := by
  unfold execEgrTxClose
  by_cases hopen : s.egrq.txOpen <;> simp [hopen]

theorem execIngRxClose_underLog (s : State) : underLog s.log (execIngRxClose (s.withLog [])) = execIngRxClose s := by
  unfold execIngRxClose
  by_cases hopen : s.ingq.rxOpen <;> simp [hopen]

theorem execSupHalt_underLog (s : State) : underLog s.log (execSupHalt (s.withLog [])) = execSupHalt s := by
  unfold execSupHalt
  by_cases hlive : s.halted = false
  · by_cases hended : ingDone s = true ∨ egrDone s = true <;> simp [hlive, hended]
  · simp [hlive]

theorem execDecode_underLog (r : WireRecord) (s : State) :
    underLog s.log (execDecode r (s.withLog [])) = execDecode r s := by
  unfold execDecode
  by_cases hw : r.wf <;> simp [hw]

theorem receiveCan_underLog (m : MsgType) (a : DevAddr) (s : State) :
    underLog s.log (receiveCan m a (s.withLog [])) = receiveCan m a s := by
  simp [receiveCan]

/-- No instruction but RESET reads LOG. -/
theorem exec_underLog (i : Instr) (hi : i ≠ .reset) (s : State) :
    underLog s.log (exec i (s.withLog [])) = exec i s := by
  cases i with
  | error | outputChanged | inputChanged | setOutput | triggerInput | callProcedure | shutterCommand | requestStatus
  | statusIo | status | timeAnnouncement | info | pong | ping => exact receiveFrame_underLog _ _ s
  | errorCan | outputChangedCan | inputChangedCan | setOutputCan | triggerInputCan | callProcedureCan
  | shutterCommandCan | requestStatusCan | statusIoCan | statusCan | timeAnnouncementCan | infoCan | pongCan
  | pingCan => exact receiveCan_underLog _ _ s
  | ingRead r => exact execIngRead_underLog r s
  | ingPush => exact execIngPush_underLog s
  | egrRecv => exact execEgrRecv_underLog s
  | egrWrite w => exact execEgrWrite_underLog w s
  | egrPush rec => exact execEgrPush_underLog rec s
  | ingPop => exact execIngPop_underLog s
  | egrTxClose => exact execEgrTxClose_underLog s
  | ingRxClose => exact execIngRxClose_underLog s
  | supHalt => exact execSupHalt_underLog s
  | decode r => exact execDecode_underLog r s
  | encode | toCan | splitCan => simp [exec, execEncode, execToCan, execSplitCan]
  | reset => exact absurd rfl hi

/-- A next state under `l` comes from a next state. -/
theorem underLog_eq_next {l : List LogEvent} {o : Result} {t : State} (h : underLog l o = .next t) :
    ∃ u, o = .next u ∧ t = u.withLog (l ++ u.log) := by
  cases o with
  | next u =>
    injection h with h
    exact ⟨u, rfl, h.symm⟩
  | fault f => cases h
  | refused r => cases h

/-- Settles O53: the entries appended are those that the step appends to an empty LOG. -/
theorem logIsAppendedAndNeverRead : Obligations.LogIsAppendedAndNeverRead := by
  intro i s t l hi h
  obtain ⟨u, hu, rfl⟩ := underLog_eq_next ((exec_underLog i hi s).trans h)
  obtain ⟨k, hk, hlog⟩ := (exec_move hu).log_append hi
  have hul : u.log = k := hlog
  refine ⟨u.log, hul ▸ hk, rfl, ?_⟩
  calc exec i (s.withLog l)
      = underLog l (exec i (s.withLog [])) := (exec_underLog i hi (s.withLog l)).symm
    _ = .next (u.withLog (l ++ u.log)) := by rw [hu, underLog_next]

end Sys2Proof.Machine
end

section
/-! SUPPORT. Runs: which port a transaction's instruction comes from, what a step does to the schedule, and the
induction over a run of `stepsFrom`. -/

namespace Sys2Proof.Machine

open Sys2Proof

/-- Every row that a read decodes to is a step of ING (R132). -/
theorem isIngStep_of_decode_rx {r : ReadResult} {i : Instr} (h : decode (.rx r) = .ok i) : isIngStep i = true := by
  cases r with
  | chunk l =>
    obtain ⟨_, t, -, rfl⟩ := decodeChunk_ok h
    cases t <;> rfl
  | zero | ioError => cases h; rfl

/-- What TRX answers moves agent ING, whether it decodes to a row or not (R132). -/
theorem isIngStep_instrOf_rx (c : Config) (r : ReadResult) : isIngStep (instrOf c (.rx r)) = true := by
  cases hd : decode (.rx r) with
  | error e => simp [instrOf, hd, isIngStep]
  | ok i =>
    by_cases hw : r.wf c
    · rw [instrOf_of_decode (t := .rx r) hw hd]
      exact isIngStep_of_decode_rx hd
    · simp [instrOf, hw, isIngStep]

/-- An identifier given to the codec is a codec call, named or not (R241). -/
theorem isCodecCall_instrOf_can (c : Config) (w : BitVec 16) : isCodecCall (instrOf c (.can w)) = true := by
  cases hd : decode (.can w) with
  | error e => simp [instrOf, hd, isCodecCall]
  | ok i =>
    obtain ⟨t, rfl⟩ := decodeCan_ok hd
    rw [instrOf_of_decode rfl hd]
    cases t <;> rfl

/-- What is neither a step of ING nor a codec call is scheduled as the operation itself. -/
theorem eq_op_of_instrOf {c : Config} {x : Transaction} {i : Instr} (h : instrOf c x = i) (hing : isIngStep i = false)
    (hcodec : isCodecCall i = false) : x = .op i := by
  cases x with
  | rx r => simp [← h, isIngStep_instrOf_rx] at hing
  | can w => simp [← h, isCodecCall_instrOf_can] at hcodec
  | op j => exact congrArg _ h

theorem instrOf_ne {c : Config} {x : Transaction} {i : Instr} (h : x ≠ .op i) (hing : isIngStep i = false)
    (hcodec : isCodecCall i = false) : instrOf c x ≠ i :=
  fun hi => h (eq_op_of_instrOf hi hing hcodec)

/-- No move writes the schedule: `step` does, before and after. -/
theorem Move.schedule_eq {i : Instr} {s t : State} (m : Move i s t) : t.schedule = s.schedule := by
  cases m <;> simp

theorem mem_requeue_schedule {x y : Transaction} {u : State} (h : y ∈ (requeue x u).schedule) :
    y ∈ u.schedule ∨ y = x := by
  rw [requeue_eq] at h
  dsimp only at h
  split at h
  · simpa using h
  · exact .inl h

/-- A step schedules nothing new: the transaction tried is dropped or put back. -/
theorem step_schedule_subset {s u : State} (h : step s = .next u) : u.schedule ⊆ s.schedule := by
  intro y hy
  obtain ⟨-, rfl⟩ | ⟨x, rest, v, hs, m, rfl⟩ := step_move h
  · exact hy
  · rw [hs, List.mem_cons]
    obtain hv | rfl := mem_requeue_schedule hy
    · rw [m.schedule_eq] at hv
      exact .inr hv
    · exact .inl rfl

theorem stepsFrom_succ_next {k : Nat} {s t : State} (h : stepsFrom (k + 1) s = .next t) :
    ∃ u, step s = .next u ∧ stepsFrom k u = .next t := by
  unfold stepsFrom at h
  split at h
  · next u hu => exact ⟨u, hu, h⟩
  · cases h
  · cases h

theorem along_succ {f : State → State → List WireRecord} {k : Nat} {s u : State} (h : step s = .next u) :
    along f (k + 1) s = f s u ++ along f k u := by
  simp [along, h]

/-- Induction over a run: `P` holds all along it, and `R`, which may speak of the number of steps left, holds of no step
and is carried over one step put in front. -/
theorem stepsFrom_induction {P : State → Prop} {R : Nat → State → State → Prop}
    (keep : ∀ {s u}, P s → step s = .next u → P u) (zero : ∀ s, R 0 s s)
    (succ : ∀ {k s u t}, P s → step s = .next u → R k u t → R (k + 1) s t) :
    ∀ {k : Nat} {s t : State}, P s → stepsFrom k s = .next t → R k s t := by
  intro k
  induction k with
  | zero =>
    intro s t _ h
    cases h
    exact zero s
  | succ k ih =>
    intro s t hP h
    obtain ⟨u, hu, hrun⟩ := stepsFrom_succ_next h
    exact succ hP hu (ih (keep hP hu) hrun)

end Sys2Proof.Machine
end

section
/-! SUPPORT. The order of the egress flow (R72, R181): one move, one step, then a run. -/

namespace Sys2Proof.Machine

open Sys2Proof

variable {i : Instr} {s t u : State}

/-- The record accepted by an instruction that answered `a`, if it was EGR_PUSH and was accepted (R184). -/
def acceptedOf : Instr → Answer → List WireRecord
  | .egrPush r, .pushed => [r]
  | _, _ => []

theorem acceptedOf_eq_nil {a : Answer} (h : ∀ r, i = .egrPush r → a ≠ .pushed) : acceptedOf i a = [] := by
  unfold acceptedOf
  split
  · exact absurd rfl (h _ rfl)
  · rfl

/-- What a step accepts depends on the instruction of its transaction alone. -/
theorem acceptedBy_of_schedule {x : Transaction} {rest : List Transaction} (h : s.schedule = x :: rest) :
    acceptedBy s t = acceptedOf (instrOf s.cfg x) t.answer := by
  have hnil (hx : ∀ r, x ≠ .op (.egrPush r)) : acceptedOf (instrOf s.cfg x) t.answer = [] :=
    acceptedOf_eq_nil fun r hr => absurd hr (instrOf_ne (hx r) rfl rfl)
  unfold acceptedBy
  rw [h]
  cases x with
  | op i => cases i <;> cases t.answer <;> rfl
  | rx => exact (hnil nofun).symm
  | can => exact (hnil nofun).symm

/-! `egressPipe` by the phase of EGR -/

theorem egressPipe_of_recv (h : s.egr = .recv) : egressPipe s = s.egrq.buf := by simp [egressPipe, h]

theorem egressPipe_of_write {r : WireRecord} (h : s.egr = .write r) : egressPipe s = r :: s.egrq.buf := by
  simp [egressPipe, h]

theorem egressPipe_of_done {r : FlowResult} (h : s.egr = .done r) : egressPipe s = s.egrq.buf := by
  simp [egressPipe, h]

/-- From `s` to `t`, over which `accepted` was accepted, egress kept its order: what was held or accepted was presented
on TX, and the rest is still held. -/
def EgressInOrder (s : State) (accepted : List WireRecord) (t : State) : Prop :=
  ∃ sent : List WireRecord,
    egressPipe s ++ accepted = sent ++ egressPipe t ∧ t.tx.map (·.bytes) = s.tx.map (·.bytes) ++ sent.map serialize

namespace EgressInOrder

/-- Nothing accepted and nothing presented. -/
theorem of_eq {a : List WireRecord} (ha : a = []) (hpipe : egressPipe t = egressPipe s) (htx : t.tx = s.tx) :
    EgressInOrder s a t :=
  ⟨[], by simp [ha, hpipe], by simp [htx]⟩

theorem trans {a b : List WireRecord} (h : EgressInOrder s a u) (h' : EgressInOrder u b t) :
    EgressInOrder s (a ++ b) t := by
  obtain ⟨sent, hpipe, htx⟩ := h
  obtain ⟨sent', hpipe', htx'⟩ := h'
  refine ⟨sent ++ sent', ?_, by simp [htx', htx]⟩
  calc egressPipe s ++ (a ++ b)
      = sent ++ (egressPipe u ++ b) := by rw [← List.append_assoc, hpipe, List.append_assoc]
    _ = sent ++ sent' ++ egressPipe t := by rw [hpipe', List.append_assoc]

end EgressInOrder

/-- A push enters the pipe at its young end, a write, failed or not, presents its oldest record, EGR.RECV moves a record
within it, and no other move but the halt and the reset touches it. -/
theorem Move.egressInOrder (m : Move i s t) (hreset : i ≠ .reset) (hhalt : i ≠ .supHalt) :
    EgressInOrder s (acceptedOf i t.answer) t := by
  cases m with
  | accepts rec instr =>
    subst instr
    exact ⟨[], by simp [egressPipe, acceptedOf], by simp⟩
  | takes rec rest instr _ waiting buf =>
    subst instr
    refine .of_eq rfl ?_ rfl
    rw [egressPipe_of_write rfl, egressPipe_of_recv waiting, Fifo.pop_buf, buf, List.tail_cons]
  | endsCleanly instr _ waiting =>
    subst instr
    exact .of_eq rfl ((egressPipe_of_done rfl).trans (egressPipe_of_recv waiting).symm) rfl
  | writes rec instr _ held =>
    subst instr
    refine ⟨[rec], ?_, by simp⟩
    rw [egressPipe_of_write held, egressPipe_of_recv rfl]
    simp [acceptedOf]
  | writeFails rec instr _ held =>
    subst instr
    refine ⟨[rec], ?_, by simp⟩
    rw [egressPipe_of_write held, egressPipe_of_done rfl]
    simp [acceptedOf]
  | halts instr => exact absurd instr hhalt
  | resets instr => exact absurd instr hreset
  | waits => exact .of_eq (acceptedOf_eq_nil fun _ _ => nofun) rfl rfl
  | latches _ _ agent => exact .of_eq (acceptedOf_eq_nil (by rintro _ rfl; cases agent)) rfl rfl
  | answers _ codec => exact .of_eq (acceptedOf_eq_nil (by rintro _ rfl; cases codec)) rfl rfl
  | discards _ _ instr | readFails instr | peerGone instr | queues _ instr | receiverGone _ instr | refusesPush _ instr
  | pops _ _ instr | drains instr | senderGone instr | consumerGone instr =>
    subst instr
    exact .of_eq rfl rfl rfl

/-- The schedule holds neither RESET nor SUP.HALT. -/
abbrev NoResetOrHalt (s : State) : Prop := ∀ x ∈ s.schedule, x ≠ .op .reset ∧ x ≠ .op .supHalt

theorem step_egressInOrder (hs : NoResetOrHalt s) (h : step s = .next u) : EgressInOrder s (acceptedBy s u) u := by
  obtain ⟨hnil, rfl⟩ | ⟨x, rest, v, hx, m, rfl⟩ := step_move h
  · exact .of_eq (by simp [acceptedBy, hnil]) rfl rfl
  · obtain ⟨hreset, hhalt⟩ := hs x (by simp [hx])
    rw [acceptedBy_of_schedule hx, requeue_eq]
    exact m.egressInOrder (instrOf_ne hreset rfl rfl) (instrOf_ne hhalt rfl rfl)

/-- Settles O59, by induction over the run: each step keeps the order (`step_egressInOrder`), and orders compose. -/
theorem egressOrderIsEndToEnd : Obligations.EgressOrderIsEndToEnd := by
  intro k s t hs hrun
  refine stepsFrom_induction (P := NoResetOrHalt) (R := fun k s t => EgressInOrder s (along acceptedBy k s) t)
    (fun hP h x hx => hP x (step_schedule_subset h hx)) (fun s => .of_eq rfl rfl rfl) (fun hP h ih => ?_) hs hrun
  rw [along_succ h]
  exact (step_egressInOrder hP h).trans ih

end Sys2Proof.Machine
end

section
/-! SUPPORT. The order of the ingress flow (R72, R181): one move, one step, then a run. -/

namespace Sys2Proof.Machine

open Sys2Proof

variable {i : Instr} {s t u : State}

/-- The record handed out by an instruction that answered `a`, if it was ING_POP and there was one (R186). -/
def poppedOf : Instr → Answer → List WireRecord
  | .ingPop, .popped r => [r]
  | _, _ => []

theorem poppedOf_eq_nil {a : Answer} (h : i = .ingPop → ∀ r, a ≠ .popped r) : poppedOf i a = [] := by
  unfold poppedOf
  split
  · exact absurd rfl (h rfl _)
  · rfl

/-- What a step pops depends on the instruction of its transaction alone. -/
theorem poppedBy_of_schedule {x : Transaction} {rest : List Transaction} (h : s.schedule = x :: rest) :
    poppedBy s t = poppedOf (instrOf s.cfg x) t.answer := by
  have hnil (hx : x ≠ .op .ingPop) : poppedOf (instrOf s.cfg x) t.answer = [] :=
    poppedOf_eq_nil fun hi => absurd hi (instrOf_ne hx rfl rfl)
  unfold poppedBy
  rw [h]
  cases x with
  | op i => cases i <;> cases t.answer <;> rfl
  | rx => exact (hnil nofun).symm
  | can => exact (hnil nofun).symm

/-! `ingressPipe` and `framedBy` by the phase of ING -/

theorem ingressPipe_of_read (h : s.ing = .read) : ingressPipe s = s.ingq.buf := by simp [ingressPipe, h]

theorem ingressPipe_of_push {r : WireRecord} (h : s.ing = .push r) : ingressPipe s = s.ingq.buf ++ [r] := by
  simp [ingressPipe, h]

theorem ingressPipe_of_done {e : FlowErr} (h : s.ing = .done e) : ingressPipe s = s.ingq.buf := by
  simp [ingressPipe, h]

theorem framedBy_of_latch {r : WireRecord} (hs : s.ing = .read) (ht : t.ing = .push r) : framedBy s t = [r] := by
  simp [framedBy, hs, ht]

theorem framedBy_of_ing_eq (h : t.ing = s.ing) : framedBy s t = [] := by
  unfold framedBy
  rw [h]
  cases s.ing <;> rfl

/-- From `s` to `t`, over which `framed` was framed and `popped` popped, ingress kept its order: what was held or framed
was popped, and the rest is still held. -/
def IngressInOrder (s : State) (framed popped : List WireRecord) (t : State) : Prop :=
  ingressPipe s ++ framed = popped ++ ingressPipe t

namespace IngressInOrder

/-- Nothing framed and nothing popped. -/
theorem of_eq {f p : List WireRecord} (hf : f = []) (hp : p = []) (h : ingressPipe t = ingressPipe s) :
    IngressInOrder s f p t := by
  simp [IngressInOrder, hf, hp, h]

theorem trans {a b p q : List WireRecord} (h : IngressInOrder s a p u) (h' : IngressInOrder u b q t) :
    IngressInOrder s (a ++ b) (p ++ q) t :=
  calc ingressPipe s ++ (a ++ b)
      = p ++ (ingressPipe u ++ b) := by rw [← List.append_assoc, h, List.append_assoc]
    _ = p ++ q ++ ingressPipe t := by rw [h', List.append_assoc]

end IngressInOrder

/-- A framed record enters the pipe at its young end, ING.PUSH moves it within, a pop takes the oldest, and while INGQ
has its receiver no other move but the close and the reset touches it: the halt leaves INGQ's records (R191). -/
theorem Move.ingressInOrder (m : Move i s t) (hreset : i ≠ .reset) (hclose : i ≠ .ingRxClose)
    (hopen : s.ingq.rxOpen = true) : IngressInOrder s (framedBy s t) (poppedOf i t.answer) t := by
  cases m with
  | latches rec a agent _ reads =>
    rw [framedBy_of_latch reads rfl, poppedOf_eq_nil (by rintro rfl; cases agent), IngressInOrder,
      ingressPipe_of_read reads, ingressPipe_of_push rfl]
    simp
  | peerGone instr _ reads =>
    subst instr
    exact .of_eq (by simp [framedBy, reads]) rfl ((ingressPipe_of_done rfl).trans (ingressPipe_of_read reads).symm)
  | queues rec instr _ held =>
    subst instr
    exact .of_eq (by simp [framedBy, held]) rfl ((ingressPipe_of_read rfl).trans (ingressPipe_of_push held).symm)
  | receiverGone _ _ _ _ shut => simp [hopen] at shut
  | pops rec rest instr _ buf =>
    subst instr
    rw [IngressInOrder, framedBy_of_ing_eq]
    · simp [ingressPipe, poppedOf, buf]
    · rfl
  | consumerGone instr => exact absurd instr hclose
  | resets instr => exact absurd instr hreset
  | waits => exact .of_eq (framedBy_of_ing_eq rfl) (poppedOf_eq_nil fun _ _ => nofun) rfl
  | answers _ codec => exact .of_eq (framedBy_of_ing_eq rfl) (poppedOf_eq_nil (by rintro rfl; cases codec)) rfl
  | discards _ _ instr | readFails instr | takes _ _ instr | endsCleanly instr | writes _ instr | writeFails _ instr
  | accepts _ instr | refusesPush _ instr | drains instr | senderGone instr | halts instr =>
    subst instr
    exact .of_eq (framedBy_of_ing_eq rfl) rfl rfl

/-- The schedule holds neither RESET nor ING_RXCLOSE. -/
abbrev NoResetOrRxClose (s : State) : Prop := ∀ x ∈ s.schedule, x ≠ .op .reset ∧ x ≠ .op .ingRxClose

/-- INGQ keeps its receiver while nobody drops it (R190). -/
theorem step_ingq_rxOpen (hs : NoResetOrRxClose s) (hopen : s.ingq.rxOpen = true) (h : step s = .next u) :
    u.ingq.rxOpen = true := by
  obtain ⟨-, rfl⟩ | ⟨x, rest, v, hx, m, rfl⟩ := step_move h
  · exact hopen
  · obtain ⟨hreset, hclose⟩ := hs x (by simp [hx])
    rw [requeue_eq]
    have hkeep : v.ingq.rxOpen = s.ingq.rxOpen := by
      by_contra hne
      obtain ⟨hi, -⟩ := m.ingq_rxOpen (instrOf_ne hreset rfl rfl) hne
      exact instrOf_ne hclose rfl rfl hi
    exact hkeep.trans hopen

theorem step_ingressInOrder (hs : NoResetOrRxClose s) (hopen : s.ingq.rxOpen = true) (h : step s = .next u) :
    IngressInOrder s (framedBy s u) (poppedBy s u) u := by
  obtain ⟨hnil, rfl⟩ | ⟨x, rest, v, hx, m, rfl⟩ := step_move h
  · exact .of_eq (framedBy_of_ing_eq rfl) (by simp [poppedBy, hnil]) rfl
  · obtain ⟨hreset, hclose⟩ := hs x (by simp [hx])
    rw [poppedBy_of_schedule hx, requeue_eq]
    exact m.ingressInOrder (instrOf_ne hreset rfl rfl) (instrOf_ne hclose rfl rfl) hopen

/-- Settles O60, by induction over the run: each step keeps the order (`step_ingressInOrder`), and orders compose. -/
theorem ingressOrderIsEndToEnd : Obligations.IngressOrderIsEndToEnd := by
  intro k s t hs hopen hrun
  refine stepsFrom_induction (P := fun s => NoResetOrRxClose s ∧ s.ingq.rxOpen = true)
    (R := fun k s t => IngressInOrder s (along framedBy k s) (along poppedBy k s) t)
    (fun ⟨hP, ho⟩ h => ⟨fun x hx => hP x (step_schedule_subset h hx), step_ingq_rxOpen hP ho h⟩)
    (fun s => .of_eq rfl rfl rfl) (fun ⟨hP, ho⟩ h ih => ?_) ⟨hs, hopen⟩ hrun
  rw [along_succ h, along_succ h]
  exact (step_ingressInOrder hP ho h).trans ih

end Sys2Proof.Machine
end

section
/-! SUPPORT. The two flows (R75, R363): replacing what belongs to one commutes with every step of the other, which says
both that the step does not read it and that the step leaves it alone. -/

namespace Sys2Proof.Machine

open Sys2Proof

variable {i : Instr} {s t : State}

/-- An outcome with `f` applied to its next state. -/
def mapNext (f : State → State) : Result → Result
  | .next t => .next (f t)
  | .fault e => .fault e
  | .refused r => .refused r

@[simp] theorem mapNext_next (f : State → State) (t : State) : mapNext f (.next t) = .next (f t) := rfl

@[simp] theorem mapNext_fault (f : State → State) (e : Fault) : mapNext f (.fault e) = .fault e := rfl

/-! ## ING and what belongs to EGR -/

/-- The state with another EGR phase, EGRQ and TX. -/
def State.withEgress (e : EgrPhase) (q : Fifo) (x : List TxFrame) (s : State) : State :=
  { s with egr := e, egrq := q, tx := x }

section
variable (e : EgrPhase) (q : Fifo) (x : List TxFrame) (s : State)

@[simp] theorem withEgress_cfg : (s.withEgress e q x).cfg = s.cfg := rfl
@[simp] theorem withEgress_ing : (s.withEgress e q x).ing = s.ing := rfl
@[simp] theorem withEgress_egr : (s.withEgress e q x).egr = e := rfl
@[simp] theorem withEgress_ingq : (s.withEgress e q x).ingq = s.ingq := rfl
@[simp] theorem withEgress_egrq : (s.withEgress e q x).egrq = q := rfl
@[simp] theorem withEgress_halted : (s.withEgress e q x).halted = s.halted := rfl
@[simp] theorem withEgress_firstErr : (s.withEgress e q x).firstErr = s.firstErr := rfl
@[simp] theorem withEgress_result : (s.withEgress e q x).result = s.result := rfl
@[simp] theorem withEgress_log : (s.withEgress e q x).log = s.log := rfl
@[simp] theorem withEgress_tx : (s.withEgress e q x).tx = x := rfl
@[simp] theorem withEgress_schedule : (s.withEgress e q x).schedule = s.schedule := rfl

@[simp] theorem withEgress_mk (c : Config) (p : IngPhase) (e' : EgrPhase) (f q' : Fifo) (b : Bool) (v : Option FlowErr)
    (r : Option FlowResult) (l : List LogEvent) (x' : List TxFrame) (a : Answer) (y : List Transaction) :
    State.withEgress e q x ⟨c, p, e', f, q', b, v, r, l, x', a, y⟩ = ⟨c, p, e, f, q, b, v, r, l, x, a, y⟩ := rfl

theorem withEgress_self : s.withEgress s.egr s.egrq s.tx = s := rfl

@[simp] theorem ingqHasRoom_withEgress : ingqHasRoom (s.withEgress e q x) = ingqHasRoom s := rfl

@[simp] theorem mapNext_withEgress_suspend :
    mapNext (State.withEgress e q x) (suspend s) = suspend (s.withEgress e q x) := rfl

@[simp] theorem withEgress_answering (a : Answer) :
    (answering a s).withEgress e q x = answering a (s.withEgress e q x) := rfl

@[simp] theorem withEgress_raise (v : Event) (i : Info) :
    (raise v i s).withEgress e q x = raise v i (s.withEgress e q x) := rfl

@[simp] theorem withEgress_latch (r : WireRecord) (a : Answer) :
    (latch r a s).withEgress e q x = latch r a (s.withEgress e q x) := rfl

@[simp] theorem withEgress_endFlow_peerDisconnected :
    (endFlow .peerDisconnected s).withEgress e q x = endFlow .peerDisconnected (s.withEgress e q x) := rfl

@[simp] theorem withEgress_endFlow_ingressReceiverClosed :
    (endFlow .ingressReceiverClosed s).withEgress e q x = endFlow .ingressReceiverClosed (s.withEgress e q x) := rfl

theorem receiveFrame_withEgress (rec : WireRecord) (d : Decoded) :
    receiveFrame rec d (s.withEgress e q x) = mapNext (State.withEgress e q x) (receiveFrame rec d s) := by
  unfold receiveFrame
  simp only [withEgress_halted, withEgress_ing]
  split
  · by_cases hw : rec.wf <;> simp [hw]
  · rfl

theorem readChunk_withEgress (c : List Byte) :
    readChunk c (s.withEgress e q x) = mapNext (State.withEgress e q x) (readChunk c s) := by
  unfold readChunk
  by_cases hempty : c.length = 0
  · simp [hempty]
  by_cases hlong : s.cfg.chunkSize < c.length
  · simp [hempty, hlong]
  cases frameChunk c <;> simp [hempty, hlong]

theorem execIngRead_withEgress (r : ReadResult) :
    execIngRead r (s.withEgress e q x) = mapNext (State.withEgress e q x) (execIngRead r s) := by
  unfold execIngRead
  simp only [withEgress_halted, withEgress_ing]
  split
  · cases r with
    | zero => simp
    | ioError => simp
    | chunk c => exact readChunk_withEgress e q x s c
  · rfl

theorem execIngPush_withEgress :
    execIngPush (s.withEgress e q x) = mapNext (State.withEgress e q x) (execIngPush s) := by
  unfold execIngPush
  simp only [withEgress_halted, withEgress_ing]
  split
  · by_cases hopen : s.ingq.rxOpen = false
    · simp [hopen]
    by_cases hroom : ingqHasRoom s <;> simp [hopen, hroom]
  · rfl

end

/-- A step of ING does the same whatever EGR's phase, EGRQ and TX hold. -/
theorem exec_withEgress (hi : isIngStep i = true) (e : EgrPhase) (q : Fifo) (x : List TxFrame) (s : State) :
    exec i (s.withEgress e q x) = mapNext (State.withEgress e q x) (exec i s) := by
  cases i with
  | error | outputChanged | inputChanged | setOutput | triggerInput | callProcedure | shutterCommand | requestStatus
  | statusIo | status | timeAnnouncement | info | pong | ping => exact receiveFrame_withEgress e q x s _ _
  | ingRead r => exact execIngRead_withEgress e q x s r
  | ingPush => exact execIngPush_withEgress e q x s
  | _ => cases hi

/-- A step of ING leaves EGR's phase, EGRQ and TX alone: putting back what they held changes nothing. -/
theorem egress_eq_of_ingStep (hi : isIngStep i = true) (h : exec i s = .next t) :
    t.egr = s.egr ∧ t.egrq = s.egrq ∧ t.tx = s.tx := by
  have hself := exec_withEgress hi s.egr s.egrq s.tx s
  rw [withEgress_self, h, mapNext_next] at hself
  injection hself with ht
  rw [ht]
  simp

/-! ## EGR and what belongs to ING -/

/-- The state with another ING phase and INGQ. -/
def State.withIngress (p : IngPhase) (q : Fifo) (s : State) : State := { s with ing := p, ingq := q }

section
variable (p : IngPhase) (q : Fifo) (s : State)

@[simp] theorem withIngress_cfg : (s.withIngress p q).cfg = s.cfg := rfl
@[simp] theorem withIngress_ing : (s.withIngress p q).ing = p := rfl
@[simp] theorem withIngress_egr : (s.withIngress p q).egr = s.egr := rfl
@[simp] theorem withIngress_ingq : (s.withIngress p q).ingq = q := rfl
@[simp] theorem withIngress_egrq : (s.withIngress p q).egrq = s.egrq := rfl
@[simp] theorem withIngress_halted : (s.withIngress p q).halted = s.halted := rfl
@[simp] theorem withIngress_firstErr : (s.withIngress p q).firstErr = s.firstErr := rfl
@[simp] theorem withIngress_result : (s.withIngress p q).result = s.result := rfl
@[simp] theorem withIngress_log : (s.withIngress p q).log = s.log := rfl
@[simp] theorem withIngress_tx : (s.withIngress p q).tx = s.tx := rfl
@[simp] theorem withIngress_schedule : (s.withIngress p q).schedule = s.schedule := rfl

@[simp] theorem withIngress_mk (c : Config) (p' : IngPhase) (e : EgrPhase) (q' f : Fifo) (b : Bool) (v : Option FlowErr)
    (r : Option FlowResult) (l : List LogEvent) (x : List TxFrame) (a : Answer) (y : List Transaction) :
    State.withIngress p q ⟨c, p', e, q', f, b, v, r, l, x, a, y⟩ = ⟨c, p, e, q, f, b, v, r, l, x, a, y⟩ := rfl

@[simp] theorem mapNext_withIngress_suspend :
    mapNext (State.withIngress p q) (suspend s) = suspend (s.withIngress p q) := rfl

theorem withIngress_self : s.withIngress s.ing s.ingq = s := rfl

/-- EGR.RECV reads its own phase, EGRQ and the halt state. -/
theorem execEgrRecv_withIngress :
    execEgrRecv (s.withIngress p q) = mapNext (State.withIngress p q) (execEgrRecv s) := by
  unfold execEgrRecv
  simp only [withIngress_halted, withIngress_egr]
  split
  · cases hbuf : s.egrq.buf with
    | cons => simp [hbuf]
    | nil => by_cases hopen : s.egrq.txOpen = false <;> simp [hbuf, hopen]
  · rfl

theorem execEgrWrite_withIngress (w : WriteResult) :
    execEgrWrite w (s.withIngress p q) = mapNext (State.withIngress p q) (execEgrWrite w s) := by
  unfold execEgrWrite
  simp only [withIngress_halted, withIngress_egr]
  split
  · cases w <;> rfl
  · rfl

end

/-- A step of EGR does the same whatever ING's phase and INGQ hold. -/
theorem exec_withIngress (hi : isEgrStep i = true) (p : IngPhase) (q : Fifo) (s : State) :
    exec i (s.withIngress p q) = mapNext (State.withIngress p q) (exec i s) := by
  cases i with
  | egrRecv => exact execEgrRecv_withIngress p q s
  | egrWrite w => exact execEgrWrite_withIngress p q s w
  | _ => cases hi

/-- A step of EGR leaves ING's phase and INGQ alone: putting back what they held changes nothing. -/
theorem ingress_eq_of_egrStep (hi : isEgrStep i = true) (h : exec i s = .next t) :
    t.ing = s.ing ∧ t.ingq = s.ingq := by
  have hself := exec_withIngress hi s.ing s.ingq s
  rw [withIngress_self, h, mapNext_next] at hself
  injection hself with ht
  rw [ht]
  simp

/-! ## Both -/

/-- Only the halt and the reset write the halt state and the result (R32, R352, R380). -/
theorem Move.halted_result_eq (m : Move i s t) (hhalt : i ≠ .supHalt) (hreset : i ≠ .reset) :
    t.halted = s.halted ∧ t.result = s.result := by
  cases m with
  | halts instr => exact absurd instr hhalt
  | resets instr => exact absurd instr hreset
  | _ => simp

/-- Settles O55: the independence of each flow (`exec_withEgress`, `exec_withIngress`) is also its frame, and what lies
outside both flows is written by other moves. -/
theorem eachFlowIgnoresTheOther : Obligations.EachFlowIgnoresTheOther := by
  intro i s t h
  refine ⟨fun hi => ⟨egress_eq_of_ingStep hi h, fun e q x => ?_⟩, fun hi => ⟨ingress_eq_of_egrStep hi h, fun p q => ?_⟩,
    fun hi => ?_⟩
  · exact (exec_withEgress hi e q x s).trans (by rw [h]; rfl)
  · exact (exec_withIngress hi p q s).trans (by rw [h]; rfl)
  · have m := exec_move h
    obtain ⟨hhalted, hresult⟩ := m.halted_result_eq (by rintro rfl; cases hi) (by rintro rfl; cases hi)
    exact ⟨hhalted, hresult, m.cfg_eq, m.schedule_eq⟩

end Sys2Proof.Machine
end

section
/-! SUPPORT. The payload slot read byte by byte: R21's zero tail, the framer's cut (R93) and equality, each as a
statement about the byte at offset `i`. -/

namespace Sys2Proof

open Sys2Proof.Machine

theorem Payload.get_of_le (p : Payload) {i : Nat} (h : 8 ≤ i) : p.get i = 0 :=
  List.getD_eq_default _ _ h

/-- Two payloads with the same bytes are the same. -/
theorem Payload.ext_get {p q : Payload} (h : ∀ i, p.get i = q.get i) : p = q := by
  cases p
  cases q
  rw [Payload.mk.injEq]
  exact ⟨h 0, h 1, h 2, h 3, h 4, h 5, h 6, h 7⟩

/-- R21's normal form, byte by byte. -/
theorem zeroTail_iff {n : Nat} {p : Payload} : zeroTail n p = true ↔ ∀ i, n ≤ i → p.get i = 0 := by
  simp only [zeroTail, List.all_eq_true, beq_iff_eq, List.mem_drop_iff_getElem]
  constructor
  · intro h i hi
    by_cases h8 : i < p.toList.length
    · rw [Payload.get, List.getD_eq_getElem _ _ h8]
      exact h _ ⟨i - n, by omega, by simp [Nat.add_sub_cancel' hi]⟩
    · exact p.get_of_le (Nat.le_of_not_lt h8)
  · rintro h b ⟨i, hi, rfl⟩
    have hlt : n + i < p.toList.length := by simpa [Nat.add_comm] using hi
    exact (List.getD_eq_getElem _ _ hlt).symm.trans (h (n + i) (Nat.le_add_right n i))

theorem cutPayload_get (n : Nat) (p : Payload) (i : Nat) :
    (cutPayload n p).get i = if i < n then p.get i else 0 := by
  by_cases h : i < 8
  · interval_cases i <;> rfl
  · simp [Payload.get_of_le _ (Nat.le_of_not_lt h)]

/-- The cut forgets the bytes at and beyond the length. -/
theorem cutPayload_congr {n : Nat} {p q : Payload} (h : ∀ i, i < n → p.get i = q.get i) :
    cutPayload n p = cutPayload n q := by
  refine Payload.ext_get fun i => ?_
  simp only [cutPayload_get]
  split
  · next hi => exact h i hi
  · rfl

/-- A payload in normal form (R21) is not changed by the cut. -/
theorem cutPayload_of_zeroTail {n : Nat} {p : Payload} (h : zeroTail n p = true) : cutPayload n p = p := by
  refine Payload.ext_get fun i => ?_
  rw [cutPayload_get]
  split
  · rfl
  · next hi => exact (zeroTail_iff.1 h i (Nat.le_of_not_lt hi)).symm

theorem WireRecord.wf_iff {r : WireRecord} : r.wf = true ↔ r.length ≤ 8 ∧ zeroTail r.length r.payload = true := by
  simp [WireRecord.wf]

end Sys2Proof
end

section
/-! SUPPORT. The framer and the serializer on a whole frame (R93, R94, R131). -/

namespace Sys2Proof

open Sys2Proof.Machine

/-- The low bits that a mask leaves are the number modulo a power of two (R93, R96). -/
theorem toNat_and_mask {w k : Nat} (x : BitVec w) (h : k ≤ w) :
    (x &&& BitVec.ofNat w (2 ^ k - 1)).toNat = x.toNat % 2 ^ k := by
  have hmask : 2 ^ k - 1 < 2 ^ w := Nat.sub_one_lt_of_le (Nat.two_pow_pos k) (Nat.pow_le_pow_right Nat.two_pos h)
  rw [BitVec.toNat_and, BitVec.toNat_ofNat, Nat.mod_eq_of_lt hmask, Nat.and_two_pow_sub_one_eq_mod]

/-- Masking the low `k` bits before a truncation to `k` bits does nothing. -/
theorem setWidth_and_mask {w k : Nat} (x : BitVec w) (h : k ≤ w) :
    (x &&& BitVec.ofNat w (2 ^ k - 1)).setWidth k = x.setWidth k := by
  refine BitVec.eq_of_toNat_eq ?_
  rw [BitVec.toNat_setWidth, toNat_and_mask x h, Nat.mod_mod, BitVec.toNat_setWidth]

/-- Masking the low `k` bits of a zero-extended `k`-bit field does nothing. -/
theorem setWidth_and_mask_of_le {w k : Nat} (x : BitVec k) (h : k ≤ w) :
    x.setWidth w &&& BitVec.ofNat w (2 ^ k - 1) = x.setWidth w := by
  refine BitVec.eq_of_toNat_eq ?_
  rw [toNat_and_mask _ h, BitVec.toNat_setWidth_of_le h, Nat.mod_eq_of_lt x.isLt]

theorem extractLsb'_setWidth {w k : Nat} (x : BitVec k) (h : k ≤ w) : (x.setWidth w).extractLsb' 0 k = x := by
  rw [← BitVec.setWidth_eq_extractLsb' h, BitVec.setWidth_setWidth_of_le _ h, BitVec.setWidth_eq]

/-- The framer takes of each byte of a frame the bits that R93 names, and of the payload the bytes below the length. -/
theorem recordOfFrame_frameOf (a t n : Byte) (p : Payload) (rest : List Byte) :
    recordOfFrame (frameOf a t n p ++ rest) =
      ⟨a.extractLsb' 0 6, t.extractLsb' 0 5, n.toNat, cutPayload n.toNat p⟩ := by
  have haddr : (a &&& 0x3F).setWidth 6 = a.extractLsb' 0 6 :=
    (setWidth_and_mask a (by decide)).trans (BitVec.setWidth_eq_extractLsb' (by decide))
  have htype : (t &&& 0x1F).setWidth 5 = t.extractLsb' 0 5 :=
    (setWidth_and_mask t (by decide)).trans (BitVec.setWidth_eq_extractLsb' (by decide))
  rw [← haddr, ← htype]
  rfl

/-- R131 over the bytes of a frame, whatever follows them: only the length byte can be refused. -/
theorem frameChunk_frameOf (a t n : Byte) (p : Payload) (rest : List Byte) :
    frameChunk (frameOf a t n p ++ rest) =
      if 8 < n.toNat then .error .badLen
      else .ok ⟨a.extractLsb' 0 6, t.extractLsb' 0 5, n.toNat, cutPayload n.toNat p⟩ := by
  rw [← recordOfFrame_frameOf a t n p rest]
  simp [frameChunk, frameOf, byteAt, sync1, sync2]

/-- R94 written as the frame of its fields. -/
theorem serialize_eq_frameOf (r : WireRecord) :
    serialize r = frameOf (r.addr.setWidth 8) (r.msgType.setWidth 8) (BitVec.ofNat 8 r.length) r.payload := rfl

/-- The length byte holds the length of a well-formed record (R21). -/
theorem toNat_lengthByte {n : Nat} (h : n ≤ 8) : (BitVec.ofNat 8 n).toNat = n := by
  rw [BitVec.toNat_ofNat, Nat.mod_eq_of_lt (by omega)]

/-- The framer gives a serialised record back (R148). -/
theorem frameChunk_serialize {r : WireRecord} (h : r.wf = true) : frameChunk (serialize r) = .ok r := by
  obtain ⟨hlen, htail⟩ := WireRecord.wf_iff.1 h
  rw [serialize_eq_frameOf, ← List.append_nil (frameOf _ _ _ _), frameChunk_frameOf, toNat_lengthByte hlen,
    if_neg (Nat.not_lt.2 hlen), extractLsb'_setWidth _ (by decide), extractLsb'_setWidth _ (by decide),
    cutPayload_of_zeroTail htail]

/-- R94: payload byte `i` stands at offset `5 + i`. -/
theorem serialize_getElem?_payload (r : WireRecord) (i : Nat) : (serialize r)[5 + i]? = r.payload.toList[i]? := by
  rw [serialize, List.getElem?_append_right (Nat.le_add_right 5 i)]
  simp

theorem serialize_getD_payload (r : WireRecord) (i : Nat) : (serialize r).getD (5 + i) 0 = r.payload.get i := by
  rw [Payload.get, List.getD_eq_getElem?_getD, List.getD_eq_getElem?_getD, serialize_getElem?_payload]

/-- Bits 7:6 of the addr byte are zero (R104): it holds the six bits of the address. -/
theorem toNat_serialize_addr (r : WireRecord) : ((serialize r).getD 2 0).toNat = r.addr.toNat :=
  BitVec.toNat_setWidth_of_le (w := 6) (w' := 8) (by decide)

/-- Bits 7:5 of the msg_type byte are zero (R104): it holds the five bits of the code. -/
theorem toNat_serialize_msgType (r : WireRecord) : ((serialize r).getD 3 0).toNat = r.msgType.toNat :=
  BitVec.toNat_setWidth_of_le (w := 5) (w' := 8) (by decide)

/-- Settles O9: the header bytes hold the three fields, each of which fits a byte, and the payload follows. -/
theorem serializeWritesTheFrame : Obligations.SerializeWritesTheFrame := by
  intro r h
  obtain ⟨hlen, -⟩ := WireRecord.wf_iff.1 h
  refine ⟨length_serialize r, rfl, rfl, toNat_serialize_addr r, toNat_serialize_msgType r, toNat_lengthByte hlen,
    fun i hi => ?_⟩
  rw [serialize_getElem?_payload, Payload.get, List.getD_eq_getElem _ _ hi]
  exact List.getElem?_eq_getElem hi

/-- Settles O8: the framer reads only the named bits and the payload below the length (`frameChunk_frameOf`), and the
serializer writes zero-extended fields and a normal payload. -/
theorem ignoredBitsHaveNoEffect : Obligations.IgnoredBitsHaveNoEffect := by
  refine ⟨fun a a' t t' n p p' rest rest' ha ht hp => ?_, fun r h => ?_⟩
  · rw [frameChunk_frameOf, frameChunk_frameOf, ha, ht, cutPayload_congr hp]
  · obtain ⟨-, htail⟩ := WireRecord.wf_iff.1 h
    refine ⟨(toNat_serialize_addr r).trans_lt r.addr.isLt, (toNat_serialize_msgType r).trans_lt r.msgType.isLt,
      fun i hi => ?_⟩
    rw [serialize_getD_payload]
    exact zeroTail_iff.1 htail i hi

end Sys2Proof
end

section
/-! SUPPORT. The combined address (R96, R240, R241) and the meaning of the CAN11 rows. -/

namespace Sys2Proof.Machine

open Sys2Proof

/-- The two fields of a combined address are the ones it was put together from (R96). -/
theorem canFields_combined (a : DevAddr) (t : TypeCode) :
    canFields ((t.setWidth 16 <<< 6) ||| a.setWidth 16) = (a, t) := by
  have haddr : ((t.setWidth 16 <<< 6 ||| a.setWidth 16) &&& 0x3F : BitVec 16).setWidth 6 = a := by
    refine (setWidth_and_mask _ (by decide)).trans ?_
    ext i hi
    simp
  have htype : (((t.setWidth 16 <<< 6 ||| a.setWidth 16) >>> 6) &&& 0x1F : BitVec 16).setWidth 5 = t := by
    refine (setWidth_and_mask _ (by decide)).trans ?_
    ext i hi
    have hin : 6 + i < 16 := by omega
    have hi16 : i < 16 := by omega
    simp [hin, hi16, BitVec.getLsbD_eq_getElem hi]
  exact Prod.ext haddr htype

/-- `to_can_addr` (R240) of fields in range puts them side by side. -/
theorem toCanAddr_fields (a : DevAddr) (t : TypeCode) :
    toCanAddr (a.setWidth 8) (t.setWidth 8) = (t.setWidth 16 <<< 6) ||| a.setWidth 16 := by
  have haddr : a.setWidth 8 &&& 0x3F = a.setWidth 8 := setWidth_and_mask_of_le a (by decide)
  have htype : t.setWidth 8 &&& 0x1F = t.setWidth 8 := setWidth_and_mask_of_le t (by decide)
  rw [toCanAddr, haddr, htype, BitVec.setWidth_setWidth (by decide), BitVec.setWidth_setWidth (by decide)]

/-- Splitting a combined address gives its fields back (R242). -/
theorem splitCanAddr_toCanAddr (a : DevAddr) (t : TypeCode) :
    splitCanAddr (toCanAddr (a.setWidth 8) (t.setWidth 8)) = (a, t) := by
  rw [splitCanAddr, toCanAddr_fields, canFields_combined]

/-- A CAN11 row answers its address and the code of its type, and changes nothing else (R96, R211). -/
theorem exec_canInstr (a : DevAddr) (t : MsgType) (s : State) :
    exec (canInstr a t) s = .next { s with answer := .split a t.code } := by
  have hrow : exec (canInstr a t) s = receiveCan t a s := by cases t <;> rfl
  rw [hrow, receiveCan, splitCanAddr_toCanAddr]
  rfl

/-- Settles O48: each row is the CAN11 row of its type (`exec_canInstr`). -/
theorem canRowsAnswerTheirFields : Obligations.CanRowsAnswerTheirFields := fun s a =>
  ⟨exec_canInstr a .error s, exec_canInstr a .outputChanged s, exec_canInstr a .inputChanged s,
    exec_canInstr a .setOutput s, exec_canInstr a .triggerInput s, exec_canInstr a .callProcedure s,
    exec_canInstr a .shutterCommand s, exec_canInstr a .requestStatus s, exec_canInstr a .statusIo s,
    exec_canInstr a .status s, exec_canInstr a .timeAnnouncement s, exec_canInstr a .info s,
    exec_canInstr a .pong s, exec_canInstr a .ping s⟩

end Sys2Proof.Machine
end

section
/-! SUPPORT. The decoder on what the encoder writes (R90, R96, R107): one lemma per encoding, and the three kinds of
rows. -/

namespace Sys2Proof

open Sys2Proof.Machine

theorem decode_encodeFrame (t : MsgType) (a : DevAddr) {n : Nat} {p : Payload} (h : frameWf n p = true) :
    decode (encodeFrame t a n p) = .ok (frameInstr a n p t) := by
  have hframe : frameChunk (serialize ⟨a, t.code, n, p⟩) = .ok ⟨a, t.code, n, p⟩ := frameChunk_serialize h
  simp [encodeFrame_eq, decode, decodeChunk, hframe, decodeRecordRow]

theorem decode_encodeCan (t : MsgType) (a : DevAddr) : decode (encodeCan t a) = .ok (canInstr a t) := by
  simp [encodeCan, decode, decodeCan, canFields_combined]

/-- The kind of an instruction by its encoding (R107): a FRAME13 row or a CAN11 row of a named type, or an OP row, which
is encoded as itself. -/
inductive EncodingKind : Instr → Prop where
  | frame13 (t : MsgType) (a : DevAddr) (n : Nat) (p : Payload) : EncodingKind (frameInstr a n p t)
  | can11 (t : MsgType) (a : DevAddr) : EncodingKind (canInstr a t)
  | op {i : Instr} (h : encode i = .op i) : EncodingKind i

theorem encodingKind (i : Instr) : EncodingKind i := by
  cases i with
  | error a n p => exact .frame13 .error a n p
  | outputChanged a n p => exact .frame13 .outputChanged a n p
  | inputChanged a n p => exact .frame13 .inputChanged a n p
  | setOutput a n p => exact .frame13 .setOutput a n p
  | triggerInput a n p => exact .frame13 .triggerInput a n p
  | callProcedure a n p => exact .frame13 .callProcedure a n p
  | shutterCommand a n p => exact .frame13 .shutterCommand a n p
  | requestStatus a n p => exact .frame13 .requestStatus a n p
  | statusIo a n p => exact .frame13 .statusIo a n p
  | status a n p => exact .frame13 .status a n p
  | timeAnnouncement a n p => exact .frame13 .timeAnnouncement a n p
  | info a n p => exact .frame13 .info a n p
  | pong a n p => exact .frame13 .pong a n p
  | ping a n p => exact .frame13 .ping a n p
  | errorCan a => exact .can11 .error a
  | outputChangedCan a => exact .can11 .outputChanged a
  | inputChangedCan a => exact .can11 .inputChanged a
  | setOutputCan a => exact .can11 .setOutput a
  | triggerInputCan a => exact .can11 .triggerInput a
  | callProcedureCan a => exact .can11 .callProcedure a
  | shutterCommandCan a => exact .can11 .shutterCommand a
  | requestStatusCan a => exact .can11 .requestStatus a
  | statusIoCan a => exact .can11 .statusIo a
  | statusCan a => exact .can11 .status a
  | timeAnnouncementCan a => exact .can11 .timeAnnouncement a
  | infoCan a => exact .can11 .info a
  | pongCan a => exact .can11 .pong a
  | pingCan a => exact .can11 .ping a
  | _ => exact .op rfl

theorem encode_frameInstr (t : MsgType) (a : DevAddr) (n : Nat) (p : Payload) :
    encode (frameInstr a n p t) = encodeFrame t a n p := by
  cases t <;> rfl

theorem encode_canInstr (t : MsgType) (a : DevAddr) : encode (canInstr a t) = encodeCan t a := by
  cases t <;> rfl

/-- Settles O1, by the kind of the instruction: each encoding is read back by its own part of the decoder. -/
theorem decodeOfEncodeIsTheInstruction : Obligations.DecodeOfEncodeIsTheInstruction := by
  intro c i h
  cases encodingKind i with
  | frame13 t a n p =>
    rw [encode_frameInstr]
    exact decode_encodeFrame t a (by rwa [frameInstr_wf] at h)
  | can11 t a =>
    rw [encode_canInstr]
    exact decode_encodeCan t a
  | op hop => rw [hop, decode]

/-- Settles O2: eight words of the opcode table, evaluated by the decoder. -/
theorem tableWordsDecodeAsWritten : Obligations.TableWordsDecodeAsWritten := by
  refine ⟨?_, ?_, ?_, ?_, ?_, ?_, ?_, ?_⟩ <;> decide

end Sys2Proof
end

section
/-! SUPPORT. The framer's checks one by one (R131), and what it ignores: nothing beyond byte 12 is read (R140). -/

namespace Sys2Proof

open Sys2Proof.Machine

theorem frameChunk_of_byte0_ne {c : List Byte} (h0 : byteAt c 0 ≠ sync1) : frameChunk c = .error .sync :=
  if_pos h0

theorem frameChunk_of_byte1_missing {c : List Byte} (h0 : byteAt c 0 = sync1) (hlen : c.length < 2) :
    frameChunk c = .error .short := by
  simp [frameChunk, h0, hlen]

theorem frameChunk_of_byte1_ne {c : List Byte} (h0 : byteAt c 0 = sync1) (hlen : 2 ≤ c.length)
    (h1 : byteAt c 1 ≠ sync2) : frameChunk c = .error .family := by
  simp [frameChunk, h0, Nat.not_lt.2 hlen, h1]

theorem frameChunk_of_short {c : List Byte} (h0 : byteAt c 0 = sync1) (h1 : byteAt c 1 = sync2)
    (hlen : c.length < 13) : frameChunk c = .error .short := by
  simp [frameChunk, h0, h1, hlen]

theorem byteAt_append {c : List Byte} {i : Nat} (d : List Byte) (h : i < c.length) :
    byteAt (c ++ d) i = byteAt c i :=
  List.getD_append c d 0 i h

theorem payloadOfFrame_append {c : List Byte} (d : List Byte) (h : 13 ≤ c.length) (n : Nat) :
    payloadOfFrame (c ++ d) n = payloadOfFrame c n := by
  have hslot (i : Nat) (hi : i < 8) : byteAt (c ++ d) (5 + i) = byteAt c (5 + i) := byteAt_append d (by omega)
  simp only [payloadOfFrame, hslot, Nat.reduceLT]

/-- Once there are 13 bytes, more bytes make no difference to the framer (R140). -/
theorem frameChunk_append {c : List Byte} (d : List Byte) (h : 13 ≤ c.length) :
    frameChunk (c ++ d) = frameChunk c := by
  have hheader (i : Nat) (hi : i < 5) : byteAt (c ++ d) i = byteAt c i := byteAt_append d (by omega)
  have hlen : 13 ≤ (c ++ d).length := by simp; omega
  have hrec : recordOfFrame (c ++ d) = recordOfFrame c := by
    simp only [recordOfFrame, hheader, payloadOfFrame_append d h, Nat.reduceLT]
  simp only [frameChunk, hheader, hrec, Nat.reduceLT, show ¬c.length < 2 by omega, show ¬c.length < 13 by omega,
    show ¬(c ++ d).length < 2 by omega, Nat.not_lt.2 hlen]

/-- Settles O5: the left inverse is `frameChunk_serialize`, and bit 6 of the address byte is one that the framer ignores
(R104). -/
theorem framingInvertsSerialising : Obligations.FramingInvertsSerialising := by
  refine ⟨fun _ => frameChunk_serialize,
    frameOf 0x00 0 0 Payload.zero, frameOf 0x40 0 0 Payload.zero, ⟨0, 0, 0, Payload.zero⟩, ?_, ?_, ?_⟩
  · decide
  · decide
  · decide

/-- Settles O6: one clause per check, each with the earlier checks passed. -/
theorem frameChunkChecksInOrder : Obligations.FrameChunkChecksInOrder := by
  refine ⟨fun b rest hb => frameChunk_of_byte0_ne hb, frameChunk_of_byte1_missing rfl Nat.one_lt_two,
    fun b rest hb => frameChunk_of_byte1_ne rfl (by simp) hb,
    fun rest hlen => frameChunk_of_short rfl rfl (by simpa using Nat.add_lt_add_right hlen 2),
    fun a t n p rest hn => ?_, fun a t n p rest hn => ?_⟩
  · rw [frameChunk_frameOf, if_pos hn]
  · rw [frameChunk_frameOf, if_neg (Nat.not_lt.2 hn)]

/-- Settles O7: the length byte was checked and the bytes beyond it are filled with zeros. -/
theorem framedRecordsAreWellFormed : Obligations.FramedRecordsAreWellFormed := fun _ _ => frameChunk_ok_wf

end Sys2Proof
end

section
/-! SUPPORT. The operations of ING and the closing of a FIFO's receiver as equations: what each does where its guard
holds. Where it does not hold, they wait (`exec_waits`). -/

namespace Sys2Proof.Machine

open Sys2Proof

variable {i : Instr} {s : State}

/-- An instruction whose guard fails is suspended (R16). -/
theorem exec_waits (hg : guardHolds i s = false) : exec i s = .next { s with answer := .suspended } :=
  (exec_runsOrWaits i s).of_not_guard hg

/-! ## Ended flows (R133, R144, R146, R168, R331) -/

/-- What the end of the ingress flow writes (R331, R341). -/
theorem endFlow_eq_of_ing {f : FlowErr} (hf : f ≠ .writeFailed) (s : State) :
    endFlow f s =
      { s with
        ing := .done f
        firstErr := some (s.firstErr.getD f)
        log := s.log ++ [⟨flowEvent f, .none⟩] } := by
  cases f with
  | peerDisconnected | ingressReceiverClosed => simp [endFlow, raise]
  | writeFailed => exact absurd rfl hf

/-- Every operation of ING asks in its guard for READ or PUSH (R132, R142). -/
theorem guardHolds_of_ingDone (hi : isIngStep i = true) (hd : ingDone s = true) : guardHolds i s = false := by
  cases hp : s.ing with
  | read | push => simp [ingDone, hp] at hd
  | done e =>
    cases i with
    | error | outputChanged | inputChanged | setOutput | triggerInput | callProcedure | shutterCommand | requestStatus
    | statusIo | status | timeAnnouncement | info | pong | ping | ingRead => simp [guardHolds, reading, hp]
    | ingPush => simp [guardHolds, hp]
    | _ => cases hi

/-- Every operation of EGR asks in its guard for RECV or WRITE (R161, R163). -/
theorem guardHolds_of_egrDone (hi : isEgrStep i = true) (hd : egrDone s = true) : guardHolds i s = false := by
  cases hp : s.egr with
  | recv | write => simp [egrDone, hp] at hd
  | done r =>
    cases i with
    | egrRecv | egrWrite => simp [guardHolds, hp]
    | _ => cases hi

/-- Settles O22: in DONE no guard of the flow's operations holds. -/
theorem endedFlowTakesNoStep : Obligations.EndedFlowTakesNoStep :=
  ⟨fun _ _ hi hd => exec_waits (guardHolds_of_ingDone hi hd), fun _ _ hi hd => exec_waits (guardHolds_of_egrDone hi hd)⟩

/-- R352: the halt step, once a flow has ended. -/
theorem execSupHalt_of_ended (hl : s.halted = false) (hd : ingDone s = true ∨ egrDone s = true) :
    execSupHalt s = .next (answering (.done (blockResult s)) (raise .halt (.result (blockResult s))
      { s with
        result := some (blockResult s)
        halted := true
        ingq := s.ingq.dropSender
        egrq := s.egrq.dropReceiver })) :=
  if_pos ⟨hl, by simpa using hd⟩

/-! ## ING.READ (R132, R133, R138, R140) -/

theorem execIngRead_zero (hg : reading s = true) :
    execIngRead .zero s = .next (answering .none (endFlow .peerDisconnected s)) := by
  obtain ⟨hl, hr⟩ := reading_eq_true_iff.1 hg
  simp [execIngRead, hl, hr]

/-- R138: a legal chunk that frames is latched. -/
theorem execIngRead_of_frameChunk_ok {c : List Byte} {rec : WireRecord} (hg : reading s = true)
    (hw : (ReadResult.chunk c).wf s.cfg = true) (hc : frameChunk c = .ok rec) :
    execIngRead (.chunk c) s = .next (latch rec .none s) := by
  obtain ⟨hl, hr⟩ := reading_eq_true_iff.1 hg
  obtain ⟨hne, hle⟩ := readResult_wf_chunk_iff.1 hw
  simp [execIngRead, hl, hr, readChunk, hne, Nat.not_lt.2 hle, hc]

/-- Settles O10: the flow has ended, so ING waits for ever (`guardHolds_of_ingDone`) and the halt step is enabled. -/
theorem zeroLengthReadEndsIngress : Obligations.ZeroLengthReadEndsIngress := by
  intro s hg
  obtain ⟨hl, -⟩ := reading_eq_true_iff.1 hg
  refine ⟨_, execIngRead_zero hg, ?_, fun i hi => exec_waits (guardHolds_of_ingDone hi rfl), _,
    execSupHalt_of_ended (by simpa using hl) (.inl rfl), rfl⟩
  rw [endFlow_eq_of_ing (f := .peerDisconnected) nofun]
  rfl

/-- Settles O12: the framer gives the first frame's record whatever follows (`frameChunk_append`). -/
theorem bytesAfterTheFirstFrameAreLost : Obligations.BytesAfterTheFirstFrameAreLost := by
  intro s c d rec hg h13 hlen hc
  have hw : (ReadResult.chunk (c ++ d)).wf s.cfg = true :=
    readResult_wf_chunk_iff.2 ⟨by simp [h13], hlen⟩
  exact execIngRead_of_frameChunk_ok hg hw ((frameChunk_append d h13.ge).trans hc)

/-! ## The FRAME13 rows (log entry 4) -/

/-- R138: a well-formed frame is latched. -/
theorem receiveFrame_of_reading {rec : WireRecord} (d : Decoded) (hg : reading s = true) (hw : rec.wf = true) :
    receiveFrame rec d s = .next (latch rec (.decoded d) s) := by
  obtain ⟨hl, hr⟩ := reading_eq_true_iff.1 hg
  simp [receiveFrame, hl, hr, hw]

/-- A FRAME13 row is the reception of its record, and answers what the codec's lookup by type gives (R217). -/
theorem exec_frameInstr (a : DevAddr) (n : Nat) (p : Payload) (t : MsgType) (s : State) :
    exec (frameInstr a n p t) s =
      receiveFrame ⟨a, t.code, n, p⟩ (decodeRecord s.cfg ⟨a, t.code, n, p⟩) s := by
  cases t <;> rfl

theorem guardHolds_frameInstr (a : DevAddr) (n : Nat) (p : Payload) (t : MsgType) (s : State) :
    guardHolds (frameInstr a n p t) s = reading s := by
  cases t <;> rfl

/-- Every FRAME13 row latches its record while ING reads (R138). -/
theorem exec_frameInstr_of_reading {n : Nat} {p : Payload} (a : DevAddr) (t : MsgType) (hg : reading s = true)
    (hw : frameWf n p = true) :
    exec (frameInstr a n p t) s =
      .next { s with
        ing := .push ⟨a, t.code, n, p⟩
        answer := .decoded (decodeRecord s.cfg ⟨a, t.code, n, p⟩) } :=
  (exec_frameInstr a n p t s).trans (receiveFrame_of_reading _ hg hw)

/-- Settles O51: each row is the FRAME13 row of its type (`exec_frameInstr_of_reading`). -/
theorem frameRowsAreReceived : Obligations.FrameRowsAreReceived := by
  have row (t : MsgType) : receivesAs (fun a n p => frameInstr a n p t) t.code :=
    fun _ a _ _ hg hw => exec_frameInstr_of_reading a t hg hw
  exact ⟨row .error, row .outputChanged, row .inputChanged, row .setOutput, row .triggerInput, row .callProcedure,
    row .shutterCommand, row .requestStatus, row .statusIo, row .status, row .timeAnnouncement, row .info, row .pong,
    row .ping⟩

/-- The row of a chunk is the row of the framed record's own type, with the record's fields. -/
theorem decode_rx_chunk_ok {c : List Byte} (h : decode (.rx (.chunk c)) = .ok i) :
    ∃ rec t, frameChunk c = .ok rec ∧ t.code = rec.msgType ∧ i = frameInstr rec.addr rec.length rec.payload t := by
  simp only [decode, decodeChunk] at h
  split at h
  · next rec hc =>
    unfold decodeRecordRow at h
    split at h
    · next t ht =>
      cases h
      exact ⟨rec, t, hc, msgTypeOfCode_some ht, rfl⟩
    · cases h
  · cases h

/-- Settles O52: the row carries the record that the framer gives ING.READ, and both have the guard of ING.READ. -/
theorem frameRowAgreesWithIngRead : Obligations.FrameRowAgreesWithIngRead := by
  intro s c i hw hd
  obtain ⟨⟨a, code, n, p⟩, t, hc, rfl, rfl⟩ := decode_rx_chunk_ok hd
  refine ⟨_, hc, fun hg => ⟨execIngRead_of_frameChunk_ok hg hw hc, ?_⟩, fun hg => ⟨exec_waits hg, exec_waits ?_⟩⟩
  · exact exec_frameInstr_of_reading a t hg (frameChunk_ok_wf hc)
  · rwa [guardHolds_frameInstr]

/-! ## ING.PUSH (R142 to R145) -/

/-- R144: the closed receiver is detected whether or not INGQ is full. -/
theorem execIngPush_of_shut {rec : WireRecord} (hl : s.halted = false) (hp : s.ing = .push rec)
    (ho : s.ingq.rxOpen = false) : execIngPush s = .next (answering .none (endFlow .ingressReceiverClosed s)) := by
  simp [execIngPush, hl, hp, ho]

/-- R143. -/
theorem execIngPush_of_room {rec : WireRecord} (hl : s.halted = false) (hp : s.ing = .push rec)
    (ho : s.ingq.rxOpen = true) (hroom : s.ingq.buf.length < s.cfg.ingCap) :
    execIngPush s = .next { s with ingq := s.ingq.push rec, ing := .read, answer := .none } := by
  simp [execIngPush, hl, hp, ho, ingqHasRoom, hroom]

/-- R145: an open full INGQ suspends the producer. -/
theorem guardHolds_ingPush_of_full (ho : s.ingq.rxOpen = true) (hfull : s.cfg.ingCap ≤ s.ingq.buf.length) :
    guardHolds .ingPush s = false := by
  cases hp : s.ing <;> simp [guardHolds, hp, ho, hfull]

theorem guardHolds_ingPush_of_no_record (h : ∀ rec, s.ing ≠ .push rec) : guardHolds .ingPush s = false := by
  cases hp : s.ing with
  | push rec => exact absurd hp (h rec)
  | read | done => simp [guardHolds, hp]

/-- Settles O13: the closed receiver, room and full are the three cases with a record in a live block. -/
theorem ingPushEffect : Obligations.IngPushEffect := by
  refine ⟨fun s h => exec_waits (h.elim (guardHolds_of_halted · rfl) guardHolds_ingPush_of_no_record),
    fun s rec hl hp => ⟨fun ho => ?_, execIngPush_of_room hl hp,
      fun ho hfull => exec_waits (guardHolds_ingPush_of_full ho hfull)⟩⟩
  have hclosed := execIngPush_of_shut hl hp ho
  rw [endFlow_eq_of_ing (f := .ingressReceiverClosed) nofun] at hclosed
  exact hclosed

/-! ## A receiver that closes (R144, R188, R190, R352) -/

/-- R190. -/
theorem execIngRxClose_of_open (ho : s.ingq.rxOpen = true) :
    execIngRxClose s = .next { s with ingq := s.ingq.dropReceiver, answer := .none } :=
  if_pos ho

/-- R188: EGR_PUSH fails on a closed receiver, whether or not EGRQ is full. -/
theorem execEgrPush_of_shut {rec : WireRecord} (ht : s.egrq.txOpen = true) (ho : s.egrq.rxOpen = false)
    (hw : rec.wf = true) : execEgrPush rec s = .next (answering .closed s) := by
  simp [execEgrPush, ht, ho, hw]

/-- R185: an open full EGRQ suspends the caller. -/
theorem guardHolds_egrPush_of_full (rec : WireRecord) (ho : s.egrq.rxOpen = true)
    (hfull : s.cfg.egrCap ≤ s.egrq.buf.length) : guardHolds (.egrPush rec) s = false := by
  simp [guardHolds, ho, hfull]

/-- Settles O57: the full FIFO suspends the push, and after the close the closed receiver decides before fullness. -/
theorem suspendedPushFailsOnClose : Obligations.SuspendedPushFailsOnClose := by
  refine ⟨fun s rec hl hp ho hfull => ⟨exec_waits (guardHolds_ingPush_of_full ho hfull), ?_⟩,
    fun s rec hw hl hd ht ho hfull => ⟨exec_waits (guardHolds_egrPush_of_full rec ho hfull), ?_⟩⟩
  · exact ⟨_, _, execIngRxClose_of_open ho, execIngPush_of_shut hl hp rfl, rfl, rfl⟩
  · exact ⟨_, execSupHalt_of_ended hl hd, execEgrPush_of_shut ht rfl hw, rfl⟩

end Sys2Proof.Machine
end

section
/-! SUPPORT. The step on what decodes to no row (log entry 1). -/

namespace Sys2Proof.Machine

open Sys2Proof

/-- A read result that is no row is ING.READ's operand, legal or not (R132). -/
theorem instrOf_rx_of_error {c : Config} {r : ReadResult} {e : Undecoded} (h : decode (.rx r) = .error e) :
    instrOf c (.rx r) = .ingRead r := by
  simp [instrOf, h]

/-- An identifier that no row names is SPLIT_CAN's operand (R241). -/
theorem instrOf_can_of_error {c : Config} {w : BitVec 16} {e : Undecoded} (h : decode (.can w) = .error e) :
    instrOf c (.can w) = .splitCan w := by
  simp [instrOf, h]

theorem step_of_schedule_nil {s : State} (h : s.schedule = []) : step s = .next s := by
  simp [step, h]

/-- Settles O4: fetching falls back on the operation of the port, and the step runs what is fetched. -/
theorem stepRunsWhatDecodesToNoRow : Obligations.StepRunsWhatDecodesToNoRow := by
  refine ⟨fun s r rest e hs he => ?_, fun s w rest e hs he => ?_, fun s => step_of_schedule_nil⟩
  · rw [step_of_schedule hs, instrOf_rx_of_error he]
  · rw [step_of_schedule hs, instrOf_can_of_error he]

end Sys2Proof.Machine
end

section
/-! SUPPORT. The operations of EGR as equations: what each does where its guard holds. Where it does not hold, they wait
(`exec_waits`). -/

namespace Sys2Proof.Machine

open Sys2Proof

variable {s : State} {rec : WireRecord}

/-! ## EGR.RECV (R161) -/

/-- R161: the oldest record goes to the WRITE phase. -/
theorem execEgrRecv_of_cons {rest : List WireRecord} (hl : s.halted = false) (hp : s.egr = .recv)
    (hb : s.egrq.buf = rec :: rest) :
    execEgrRecv s = .next { s with egr := .write rec, egrq := { s.egrq with buf := rest }, answer := .none } := by
  simp [execEgrRecv, hl, hp, hb, Fifo.pop]

/-- R161: an empty EGRQ without sender is the clean end of the flow. -/
theorem execEgrRecv_of_drained (hl : s.halted = false) (hp : s.egr = .recv) (hb : s.egrq.buf = [])
    (ho : s.egrq.txOpen = false) : execEgrRecv s = .next { s with egr := .done .ok, answer := .none } := by
  simp [execEgrRecv, hl, hp, hb, ho]

theorem guardHolds_egrRecv_of_not_recv (hp : s.egr ≠ .recv) : guardHolds .egrRecv s = false := by
  simp [guardHolds, hp]

/-- R161: while a sender is left, an empty EGRQ suspends the flow. -/
theorem guardHolds_egrRecv_of_empty (hb : s.egrq.buf = []) (ho : s.egrq.txOpen = true) :
    guardHolds .egrRecv s = false := by
  simp [guardHolds, hb, ho]

/-- Settles O14: a buffered record, the clean end and the empty open EGRQ are the three cases in RECV of a live block. -/
theorem egrRecvEffect : Obligations.EgrRecvEffect :=
  ⟨fun _ h => exec_waits (h.elim (guardHolds_of_halted · rfl) guardHolds_egrRecv_of_not_recv),
    fun _ hl hp => ⟨fun _ _ => execEgrRecv_of_cons hl hp, execEgrRecv_of_drained hl hp,
      fun hb ho => exec_waits (guardHolds_egrRecv_of_empty hb ho)⟩⟩

/-! ## EGR.WRITE (R163, R164) -/

/-- What the end of the egress flow writes (R164, R331, R341). -/
theorem endFlow_writeFailed_eq (s : State) :
    endFlow .writeFailed s =
      { s with
        egr := .done (.err .writeFailed)
        firstErr := some (s.firstErr.getD .writeFailed)
        log := s.log ++ [⟨.writeIo, .none⟩] } := by
  simp [endFlow, raise, flowEvent]

theorem execEgrWrite_writeOk (hl : s.halted = false) (hp : s.egr = .write rec) :
    execEgrWrite .writeOk s = .next { present rec .writeOk s with egr := .recv, answer := .none } := by
  simp [execEgrWrite, hl, hp]

theorem execEgrWrite_writeError (hl : s.halted = false) (hp : s.egr = .write rec) :
    execEgrWrite .writeError s = .next (answering .none (endFlow .writeFailed (present rec .writeError s))) := by
  simp [execEgrWrite, hl, hp]

theorem guardHolds_egrWrite_of_no_record (w : WriteResult) (h : ∀ rec, s.egr ≠ .write rec) :
    guardHolds (.egrWrite w) s = false := by
  cases hp : s.egr with
  | write rec => exact absurd hp (h rec)
  | recv | done => simp [guardHolds, hp]

/-- Settles O15: the frame goes out on TX whatever TTX answers, and the answer decides between RECV and the end of the
flow. -/
theorem egrWriteEffect : Obligations.EgrWriteEffect := by
  refine ⟨fun s w h => exec_waits (h.elim (guardHolds_of_halted · rfl) (guardHolds_egrWrite_of_no_record w)),
    fun s rec hl hp => ⟨execEgrWrite_writeOk hl hp, ?_⟩⟩
  have hfails := execEgrWrite_writeError hl hp
  rw [endFlow_writeFailed_eq] at hfails
  exact hfails

end Sys2Proof.Machine
end

section
/-! SUPPORT. The application's operations on the two FIFOs as equations: what each does where its guard holds. Where it
does not hold, they wait (`exec_waits`). -/

namespace Sys2Proof.Machine

open Sys2Proof

variable {s : State} {rec : WireRecord}

/-! ## EGR_PUSH (R184, R185, R188) -/

/-- Without a sender there is nobody to push, whatever the record (R189). -/
theorem guardHolds_egrPush_of_no_sender (rec : WireRecord) (ht : s.egrq.txOpen = false) :
    guardHolds (.egrPush rec) s = false := by
  simp [guardHolds, ht]

theorem execEgrPush_of_room (ht : s.egrq.txOpen = true) (ho : s.egrq.rxOpen = true)
    (hroom : s.egrq.buf.length < s.cfg.egrCap) (hw : rec.wf = true) :
    execEgrPush rec s = .next { s with egrq := s.egrq.push rec, answer := .pushed } := by
  simp [execEgrPush, ht, ho, egrqHasRoom, hroom, hw]

/-- Settles O16: the closed receiver, room and full are the three cases with a sender. -/
theorem egrPushEffect : Obligations.EgrPushEffect :=
  ⟨fun _ rec ht => exec_waits (guardHolds_egrPush_of_no_sender rec ht),
    fun _ rec hw ht => ⟨fun ho => execEgrPush_of_shut ht ho hw, fun ho hroom => execEgrPush_of_room ht ho hroom hw,
      fun ho hfull => exec_waits (guardHolds_egrPush_of_full rec ho hfull)⟩⟩

/-! ## ING_POP (R186, R187) -/

theorem guardHolds_ingPop_of_shut (ho : s.ingq.rxOpen = false) : guardHolds .ingPop s = false := by
  simp [guardHolds, ho]

/-- While the block holds its sending end, an empty INGQ suspends the consumer. -/
theorem guardHolds_ingPop_of_empty (hb : s.ingq.buf = []) (ht : s.ingq.txOpen = true) :
    guardHolds .ingPop s = false := by
  simp [guardHolds, hb, ht]

/-- The oldest record comes first, whether or not the sender is left. -/
theorem execIngPop_of_cons {rest : List WireRecord} (ho : s.ingq.rxOpen = true) (hb : s.ingq.buf = rec :: rest) :
    execIngPop s = .next { s with ingq := { s.ingq with buf := rest }, answer := .popped rec } := by
  simp [execIngPop, ho, hb, Fifo.pop]

/-- R187: None is answered once the sender is gone and the buffered records are drained. -/
theorem execIngPop_of_drained (ho : s.ingq.rxOpen = true) (hb : s.ingq.buf = []) (ht : s.ingq.txOpen = false) :
    execIngPop s = .next (answering .drained s) := by
  simp [execIngPop, ho, hb, ht]

/-- Settles O17: a buffered record, the drained FIFO and the empty open one are the three cases with a receiver. -/
theorem ingPopEffect : Obligations.IngPopEffect :=
  ⟨fun _ ho => exec_waits (guardHolds_ingPop_of_shut ho),
    fun _ ho => ⟨fun _ _ => execIngPop_of_cons ho, execIngPop_of_drained ho,
      fun hb ht => exec_waits (guardHolds_ingPop_of_empty hb ht)⟩⟩

/-! ## The closes (R189, R190) -/

theorem execEgrTxClose_of_open (ht : s.egrq.txOpen = true) :
    execEgrTxClose s = .next { s with egrq := s.egrq.dropSender, answer := .none } :=
  if_pos ht

/-- Settles O18: after the close EGRQ has no sender, which every EGR_PUSH asks for. -/
theorem egrTxCloseEffect : Obligations.EgrTxCloseEffect := fun _ ht =>
  ⟨_, execEgrTxClose_of_open ht, rfl, fun rec => exec_waits (guardHolds_egrPush_of_no_sender rec rfl)⟩

/-- Settles O19: after the close INGQ has no receiver, which ING_POP asks for and ING.PUSH checks first. -/
theorem ingRxCloseEffect : Obligations.IngRxCloseEffect := fun _ ho =>
  ⟨_, execIngRxClose_of_open ho, rfl, exec_waits (guardHolds_ingPop_of_shut rfl),
    fun _ hl hp => ⟨_, execIngPush_of_shut hl hp rfl, rfl⟩⟩

/-! ## Release by the peer (R185, R187, R193) -/

/-- After one EGR.RECV on a full EGRQ there is room for the producer's record, which becomes the youngest. -/
theorem egrPush_released_by_egrRecv (hl : s.halted = false) (hp : s.egr = .recv) (hcap : 1 ≤ s.cfg.egrCap)
    (ht : s.egrq.txOpen = true) (ho : s.egrq.rxOpen = true) (hfull : s.egrq.buf.length = s.cfg.egrCap)
    (hw : rec.wf = true) :
    ∃ t u, execEgrRecv s = .next t ∧ execEgrPush rec t = .next u ∧ u.answer = .pushed ∧
      u.egrq.buf = s.egrq.buf.tail ++ [rec] := by
  have hpos : 0 < s.egrq.buf.length := by omega
  obtain ⟨oldest, rest, hb⟩ := List.exists_cons_of_length_pos hpos
  have hroom : rest.length < s.cfg.egrCap := by simp [← hfull, hb]
  rw [hb]
  exact ⟨_, _, execEgrRecv_of_cons hl hp hb, execEgrPush_of_room ht ho hroom hw, rfl, rfl⟩

/-- After one ING.PUSH on an empty INGQ its record is the oldest, so the consumer gets it. -/
theorem ingPop_released_by_ingPush (hl : s.halted = false) (hp : s.ing = .push rec) (hcap : 1 ≤ s.cfg.ingCap)
    (ho : s.ingq.rxOpen = true) (hb : s.ingq.buf = []) :
    ∃ t u, execIngPush s = .next t ∧ execIngPop t = .next u ∧ u.answer = .popped rec ∧ u.ingq.buf = [] := by
  have hroom : s.ingq.buf.length < s.cfg.ingCap := by rw [hb]; exact hcap
  have honly : (s.ingq.push rec).buf = [rec] := by simp [hb]
  exact ⟨_, _, execIngPush_of_room hl hp ho hroom, execIngPop_of_cons ho honly, rfl, rfl⟩

/-- Settles O56: each caller waits, and one step of its peer makes the room or the record it waits for. -/
theorem suspendedPeersAreReleased : Obligations.SuspendedPeersAreReleased :=
  ⟨fun _ rec hw hl hp hcap ht ho hfull =>
      ⟨exec_waits (guardHolds_egrPush_of_full rec ho hfull.ge), egrPush_released_by_egrRecv hl hp hcap ht ho hfull hw⟩,
    fun _ _ hl hp hcap ho ht hb =>
      ⟨exec_waits (guardHolds_ingPop_of_empty hb ht), ingPop_released_by_ingPush hl hp hcap ho hb⟩⟩

end Sys2Proof.Machine
end

section
/-! SUPPORT. Runs of pops from an INGQ whose sender is gone (R187, R191): the buffered records in order, then None. -/

namespace Sys2Proof.Machine

open Sys2Proof

variable {s t u : State} {rest : List Transaction}

/-- A scheduled operation that runs leaves the schedule. -/
theorem step_op_of_runs {i : Instr} (hs : s.schedule = .op i :: rest)
    (hu : exec i { s with schedule := rest } = .next u) (hrun : u.answer ≠ .suspended) : step s = .next u := by
  rw [step_of_schedule hs, instrOf, hu, settleStep, requeue_of_not_suspended hrun]

theorem step_ingPop_of_cons {rec : WireRecord} {more : List WireRecord} (hs : s.schedule = .op .ingPop :: rest)
    (ho : s.ingq.rxOpen = true) (hb : s.ingq.buf = rec :: more) :
    step s =
      .next { s with ingq := { s.ingq with buf := more }, answer := .popped rec, schedule := rest } :=
  step_op_of_runs hs (execIngPop_of_cons ho hb) nofun

theorem step_ingPop_of_drained (hs : s.schedule = .op .ingPop :: rest) (ho : s.ingq.rxOpen = true)
    (hb : s.ingq.buf = []) (ht : s.ingq.txOpen = false) :
    step s = .next { s with answer := .drained, schedule := rest } :=
  step_op_of_runs hs (execIngPop_of_drained ho hb ht) nofun

theorem stepsFrom_succ (k : Nat) (h : step s = .next u) : stepsFrom (k + 1) s = stepsFrom k u := by
  simp [stepsFrom, h]

/-- `k` steps from `s` to `t` popped the first `k` records of INGQ, oldest first, and left the others; the last of them
answered None if it found none. So that a step can be put in front, an answer None that `s` brings along counts. -/
structure PopsInOrder (k : Nat) (s t : State) : Prop where
  runs : stepsFrom k s = .next t
  popped : along poppedBy k s = s.ingq.buf.take k
  left : t.ingq.buf = s.ingq.buf.drop k
  drained : s.ingq.buf.length < k ∨ (s.ingq.buf = [] ∧ s.answer = .drained) → t.answer = .drained

namespace PopsInOrder

theorem zero (s : State) : PopsInOrder 0 s s where
  runs := rfl
  popped := rfl
  left := rfl
  drained h := (h.resolve_left (Nat.not_lt_zero _)).2

/-- One pop that answers a record, put in front. -/
theorem cons {k : Nat} {rec : WireRecord} {more : List WireRecord} (hs : s.schedule = .op .ingPop :: rest)
    (hb : s.ingq.buf = rec :: more) (hstep : step s = .next u) (hbu : u.ingq.buf = more)
    (hau : u.answer = .popped rec) (h : PopsInOrder k u t) : PopsInOrder (k + 1) s t where
  runs := (stepsFrom_succ k hstep).trans h.runs
  popped := by simp [along_succ hstep, h.popped, poppedBy, hs, hau, hbu, hb]
  left := by simp [h.left, hbu, hb]
  drained hend := h.drained (.inl (by simpa [hb, hbu] using hend))

/-- One pop that answers None, put in front: all that follow answer None too. -/
theorem drain {k : Nat} (hb : s.ingq.buf = []) (hstep : step s = .next u) (hbu : u.ingq.buf = [])
    (hau : u.answer = .drained) (h : PopsInOrder k u t) : PopsInOrder (k + 1) s t where
  runs := (stepsFrom_succ k hstep).trans h.runs
  popped := by simp [along_succ hstep, h.popped, poppedBy, hau, hbu, hb]
  left := by simp [h.left, hbu, hb]
  drained _ := h.drained (.inr ⟨hbu, hau⟩)

end PopsInOrder

/-- By induction on the pops: each finds the oldest record or the drained FIFO. -/
theorem exists_popsInOrder (k : Nat) (s : State) (ho : s.ingq.rxOpen = true) (ht : s.ingq.txOpen = false)
    (hs : s.schedule = List.replicate k (.op .ingPop)) : ∃ t, PopsInOrder k s t := by
  induction k generalizing s with
  | zero => exact ⟨s, .zero s⟩
  | succ k ih =>
    rw [List.replicate_succ] at hs
    cases hb : s.ingq.buf with
    | nil =>
      obtain ⟨t, h⟩ := ih { s with answer := .drained, schedule := List.replicate k (.op .ingPop) } ho ht rfl
      exact ⟨t, h.drain hb (step_ingPop_of_drained hs ho hb ht) hb rfl⟩
    | cons rec more =>
      obtain ⟨t, h⟩ := ih { s with
        ingq := { s.ingq with buf := more }
        answer := .popped rec
        schedule := List.replicate k (.op .ingPop) } ho ht rfl
      exact ⟨t, h.cons hs hb (step_ingPop_of_cons hs ho hb) rfl rfl⟩

/-- Settles O58: the run of pops (`exists_popsInOrder`), started from whatever answer `s` shows. -/
theorem queuedRecordsSurviveTheHalt : Obligations.QueuedRecordsSurviveTheHalt := by
  intro k s ho ht hs
  obtain ⟨t, h⟩ := exists_popsInOrder k s ho ht hs
  exact ⟨t, h.runs, h.popped, h.left, fun hlt => h.drained (.inl hlt)⟩

end Sys2Proof.Machine
end

section
/-! SUPPORT. DECODE by type code (R217 to R219): whether a code has a layout, and what DECODE reads of a record
whose code has one. -/

namespace Sys2Proof.Machine

open Sys2Proof

variable {c : Config} {s : State} {r : WireRecord} {t : MsgType} {n : Nat}

/-- DECODE of a well-formed record answers what `decode` gives of it (R217). -/
theorem exec_decode_of_wf (hw : r.wf = true) :
    exec (.decode r) s = .next { s with answer := .decoded (decodeRecord s.cfg r) } :=
  if_pos hw

/-! ## Types and layouts (R97, R101, R215) -/

/-- The payload length of a message's type is the number of bytes that `encode` writes (R215). -/
theorem reqLen_messageType (c : Config) (m : Message) : reqLen (messageType m) = some (messageBytes c m).length := by
  cases m <;> rfl

/-- Each type with a layout is the type of a variant (R214). -/
theorem exists_messageType_eq (h : reqLen t = some n) : ∃ m, messageType m = t := by
  cases t with
  | error => exact ⟨.error 0, rfl⟩
  | outputChanged => exact ⟨.outputChanged 0 .on, rfl⟩
  | inputChanged => exact ⟨.inputChanged 0 .shortClick, rfl⟩
  | setOutput => exact ⟨.setOutput 0 .on, rfl⟩
  | triggerInput => exact ⟨.triggerInput 0 .shortClick, rfl⟩
  | callProcedure => exact ⟨.callProcedure 0, rfl⟩
  | shutterCommand => cases h
  | requestStatus => exact ⟨.requestStatus, rfl⟩
  | statusIo => exact ⟨.statusIo 0 .input .on, rfl⟩
  | status => exact ⟨.status 0 0 0, rfl⟩
  | timeAnnouncement => exact ⟨.timeAnnouncement 0 0 0 0 0 0 0, rfl⟩
  | info => exact ⟨.info 0 0, rfl⟩
  | pong => exact ⟨.pong 0, rfl⟩
  | ping => exact ⟨.ping 0, rfl⟩

theorem reqLen_le (h : reqLen t = some n) : n ≤ 8 := by
  cases t <;> cases h <;> decide

/-- The payload length of a type code (R97); none for a code that `decode` does not know. -/
def codeLen (k : TypeCode) : Option Nat := (msgTypeOfCode k).bind reqLen

@[simp] theorem codeLen_code (t : MsgType) : codeLen t.code = reqLen t := by simp [codeLen]

theorem codeLen_eq_some_iff {k : TypeCode} : codeLen k = some n ↔ ∃ t, t.code = k ∧ reqLen t = some n := by
  refine ⟨fun h => ?_, fun ⟨t, hk, hn⟩ => by rw [← hk, codeLen_code, hn]⟩
  obtain ⟨t, ht, hn⟩ := Option.bind_eq_some_iff.1 h
  exact ⟨t, msgTypeOfCode_some ht, hn⟩

/-- A code without a layout is the code of no variant, and the other way round. -/
theorem codeLen_eq_none_iff {k : TypeCode} : codeLen k = none ↔ ∀ m : Message, (messageType m).code ≠ k := by
  constructor
  · rintro h m rfl
    rw [codeLen_code, reqLen_messageType Config.reference] at h
    cases h
  · intro h
    cases hk : codeLen k with
    | none => rfl
    | some n =>
      obtain ⟨t, ht, hn⟩ := codeLen_eq_some_iff.1 hk
      obtain ⟨m, rfl⟩ := exists_messageType_eq hn
      exact absurd ht (h m)

/-- The 18 unassigned codes (R102) and SHUTTER_COMMAND's (R101). -/
theorem codeLen_eq_none_iff_mem : ∀ k : TypeCode, codeLen k = none ↔
    k ∈ ([0x00, 0x01, 0x03, 0x06, 0x07, 0x0B, 0x0C, 0x0F, 0x13, 0x14, 0x15, 0x16, 0x17, 0x18, 0x19, 0x1A, 0x1B, 0x1C,
      0x1F] : List TypeCode) := by
  decide

/-! ## What `decode` reads (R218, R219, R223) -/

/-- R218: without a layout the answer is UnknownType; the length and the payload are not looked at. -/
theorem decodeRecord_of_codeLen_none (h : codeLen r.msgType = none) : decodeRecord c r = .error .unknownType := by
  unfold decodeRecord
  cases ht : msgTypeOfCode r.msgType with
  | none => rfl
  | some t =>
    have hn : reqLen t = none := by simpa [codeLen, ht] using h
    cases t with
    | shutterCommand => rfl
    | _ => cases hn

/-- R219, R250: with a layout the length is compared first; then only the payload below the length is read. -/
theorem decodeRecord_eq_withLength (c : Config) (a : DevAddr) (l : Nat) (p : Payload) (hn : reqLen t = some n) :
    decodeRecord c ⟨a, t.code, l, p⟩ =
      withLength ⟨a, t.code, l, p⟩ n (decodeRecord c ⟨0, t.code, n, cutPayload n p⟩) := by
  cases t <;> cases hn <;> rfl

theorem decodeRecord_of_length_ne (ht : r.msgType = t.code) (hn : reqLen t = some n) (hl : r.length ≠ n) :
    decodeRecord c r = .error .lengthMismatch := by
  obtain ⟨a, k, l, p⟩ := r
  subst ht
  rw [decodeRecord_eq_withLength c a l p hn]
  exact if_neg hl

/-- Records of one type and length that agree below the length decode alike (R223). -/
theorem decodeRecord_congr (c : Config) (a b : DevAddr) (k : TypeCode) {l : Nat} {p q : Payload}
    (h : ∀ i, i < l → p.get i = q.get i) : decodeRecord c ⟨a, k, l, p⟩ = decodeRecord c ⟨b, k, l, q⟩ := by
  cases hk : codeLen k with
  | none =>
    have hunknown (r : WireRecord) (hr : r.msgType = k) : decodeRecord c r = .error .unknownType :=
      decodeRecord_of_codeLen_none (hr ▸ hk)
    rw [hunknown ⟨a, k, l, p⟩ rfl, hunknown ⟨b, k, l, q⟩ rfl]
  | some n =>
    obtain ⟨t, rfl, hn⟩ := codeLen_eq_some_iff.1 hk
    rw [decodeRecord_eq_withLength c a l p hn, decodeRecord_eq_withLength c b l q hn]
    by_cases hl : l = n
    · subst hl
      rw [cutPayload_congr h]
      rfl
    · exact (if_neg hl).trans (if_neg hl).symm

/-- Settles O38: a code of no variant has no layout, and 19 of the 32 codes have none. -/
theorem unknownTypesAreNonFatal : Obligations.UnknownTypesAreNonFatal := by
  refine ⟨fun s r hw hr => ?_, fun k => codeLen_eq_none_iff.symm.trans (codeLen_eq_none_iff_mem k)⟩
  rw [exec_decode_of_wf hw, decodeRecord_of_codeLen_none (codeLen_eq_none_iff.2 hr)]

/-- Settles O39: the length that `encode` writes is the one that the type's layout asks for. -/
theorem wrongLengthIsAMismatch : Obligations.WrongLengthIsAMismatch := by
  intro s r m hw ht hl
  have hn : reqLen (messageType m) = some (encodeMessage s.cfg m 0).length := by
    simp [encodeMessage, reqLen_messageType s.cfg]
  rw [exec_decode_of_wf hw, decodeRecord_of_length_ne ht hn hl]

/-- Settles O43: only the type, the length and the payload below the length are read (`decodeRecord_congr`). -/
theorem decodeIgnoresAddressAndTail : Obligations.DecodeIgnoresAddressAndTail :=
  fun c r a _ h => decodeRecord_congr c a r.addr r.msgType h

end Sys2Proof.Machine
end

section
/-! SUPPORT. What ENCODE writes (R225 to R227): the record of a message, and its payload in normal form. -/

namespace Sys2Proof.Machine

open Sys2Proof

variable {c : Config} {m : Message}

/-- The payload of a byte list of at most 8 bytes: the bytes, then zeros (R225). -/
theorem payloadOfBytes_get {l : List Byte} (h : l.length ≤ 8) (i : Nat) : (payloadOfBytes l).get i = l.getD i 0 := by
  by_cases hi : i < 8
  · interval_cases i <;> rfl
  · rw [Payload.get_of_le _ (Nat.le_of_not_lt hi), List.getD_eq_default _ _ (by omega)]

theorem zeroTail_payloadOfBytes {l : List Byte} (h : l.length ≤ 8) : zeroTail l.length (payloadOfBytes l) = true :=
  zeroTail_iff.2 fun i hi => by rw [payloadOfBytes_get h, List.getD_eq_default _ _ hi]

/-- The first `n` bytes of a payload, written again, are the payload cut at `n`. -/
theorem payloadOfBytes_take {n : Nat} (h : n ≤ 8) (p : Payload) :
    payloadOfBytes (p.toList.take n) = cutPayload n p := by
  interval_cases n <;> rfl

theorem length_messageBytes_le (c : Config) (m : Message) : (messageBytes c m).length ≤ 8 :=
  reqLen_le (reqLen_messageType c m)

/-- The length field counts the bytes written (R215, R225). -/
theorem encodeMessage_length (c : Config) (m : Message) (a : Byte) :
    (encodeMessage c m a).length = (messageBytes c m).length := by
  simp [encodeMessage, reqLen_messageType c]

/-- R225 for a given address: the mask of R226 leaves it alone. -/
theorem encodeMessage_setWidth (c : Config) (m : Message) (a : DevAddr) :
    encodeMessage c m (a.setWidth 8) =
      ⟨a, (messageType m).code, (messageBytes c m).length, payloadOfBytes (messageBytes c m)⟩ := by
  have haddr : (a.setWidth 8 &&& 0x3F : Byte).setWidth 6 = a := by
    have hmask : a.setWidth 8 &&& 0x3F = a.setWidth 8 := setWidth_and_mask_of_le a (by decide)
    rw [hmask, BitVec.setWidth_setWidth_of_le a (by decide), BitVec.setWidth_eq]
  rw [← encodeMessage_length c m (a.setWidth 8), encodeMessage, haddr]

/-- Settles O42: at most 8 bytes are counted, and zeros follow them. -/
theorem encodeGivesWellFormedRecords : Obligations.EncodeGivesWellFormedRecords := by
  intro c m a
  refine WireRecord.wf_iff.2 ?_
  rw [encodeMessage_length]
  exact ⟨length_messageBytes_le c m, zeroTail_payloadOfBytes (length_messageBytes_le c m)⟩

end Sys2Proof.Machine
end

section
/-! SUPPORT. The operand forms inverted: a little-endian field of the bytes written gives the value and the bytes of a
field read are the payload's (R14), and under injective code maps an enum code leads back to its member (R8, R99). -/

namespace Sys2Proof.Machine

open Sys2Proof

/-! ## Little-endian fields -/

theorem le16_of_bytes {p : Payload} {k : Nat} {v : BitVec 16} (h0 : p.get k = v.extractLsb' 0 8)
    (h1 : p.get (k + 1) = v.extractLsb' 8 8) : le16 p k = v := by
  rw [le16_eq_append, h0, h1]
  exact (BitVec.extractLsb'_append_extractLsb'_eq_extractLsb' rfl).trans BitVec.extractLsb'_eq_self

theorem le32_of_bytes {p : Payload} {k : Nat} {v : BitVec 32} (h0 : p.get k = v.extractLsb' 0 8)
    (h1 : p.get (k + 1) = v.extractLsb' 8 8) (h2 : p.get (k + 2) = v.extractLsb' 16 8)
    (h3 : p.get (k + 3) = v.extractLsb' 24 8) : le32 p k = v := by
  have hhigh : v.extractLsb' 24 8 ++ v.extractLsb' 16 8 = v.extractLsb' 16 16 :=
    BitVec.extractLsb'_append_extractLsb'_eq_extractLsb' rfl
  have hupper : v.extractLsb' 16 16 ++ v.extractLsb' 8 8 = v.extractLsb' 8 24 :=
    BitVec.extractLsb'_append_extractLsb'_eq_extractLsb' rfl
  rw [le32_eq_append, h0, h1, h2, h3, hhigh, hupper]
  exact (BitVec.extractLsb'_append_extractLsb'_eq_extractLsb' rfl).trans BitVec.extractLsb'_eq_self

theorem bytesLe16_le16 (p : Payload) (k : Nat) : bytesLe16 (le16 p k) = [p.get k, p.get (k + 1)] := by
  rw [le16_eq_append, bytesLe16_append]

theorem bytesLe32_le32 (p : Payload) (k : Nat) :
    bytesLe32 (le32 p k) = [p.get k, p.get (k + 1), p.get (k + 2), p.get (k + 3)] := by
  rw [le32_eq_append, bytesLe32_append]

/-! ## Enum fields -/

/-- Where the codes of a list's members are distinct, looking up a member's code finds the member. -/
theorem find?_code_eq {α : Type} {l : List α} {f : α → Byte} (hf : (l.map f).Nodup) {x : α} (hx : x ∈ l) :
    l.find? (fun y => f y == f x) = some x := by
  obtain ⟨y, hy⟩ : ∃ y, l.find? (fun y => f y == f x) = some y :=
    Option.isSome_iff_exists.1 (List.find?_isSome.2 ⟨x, hx, by simp⟩)
  have hcode : f y = f x := by simpa using List.find?_some hy
  rw [hy, List.inj_on_of_nodup_map hf (List.mem_of_find?_eq_some hy) hx hcode]

/-- The code maps of legal parameters are injective (R8). -/
theorem nodup_codes_of_legal {c : Config} (h : c.legal = true) :
    ([Trigger.shortClick, .longClick, .activated, .deactivated, .longActivated, .longDeactivated].map
      (triggerCode c)).Nodup ∧
    ([OutputState.off, .on, .toggle].map (outStateCode c)).Nodup ∧
    ([IoState.off, .on].map (ioStateCode c)).Nodup := by
  simp only [Config.legal, Bool.and_eq_true, decide_eq_true_eq] at h
  obtain ⟨⟨⟨-, htrigger⟩, hout⟩, hio⟩ := h
  exact ⟨htrigger, hout, hio⟩

theorem decTrigger_triggerCode {c : Config} (h : c.legal = true) (v : Trigger) :
    decTrigger c (triggerCode c v) = some v :=
  find?_code_eq (nodup_codes_of_legal h).1 (by cases v <;> decide)

theorem decOutState_outStateCode {c : Config} (h : c.legal = true) (v : OutputState) :
    decOutState c (outStateCode c v) = some v :=
  find?_code_eq (nodup_codes_of_legal h).2.1 (by cases v <;> decide)

theorem decIoKind_ioKindCode (v : IoKind) : decIoKind (ioKindCode v) = some v := by
  cases v <;> rfl

theorem decIoState_ioStateCode {c : Config} (h : c.legal = true) (v : IoState) :
    decIoState c (ioStateCode c v) = some v :=
  find?_code_eq (nodup_codes_of_legal h).2.2 (by cases v <;> decide)

theorem enumField_of_some {α : Type} {o : Option α} {v : α} {k : α → Decoded} (h : o = some v) :
    enumField o k = k v := by
  rw [h, enumField]

/-- A field that decodes has a member, with which decoding goes on (R99, R220). -/
theorem enumField_ok {α : Type} {o : Option α} {k : α → Decoded} {m : Message} (h : enumField o k = .ok m) :
    ∃ v, o = some v ∧ k v = .ok m := by
  cases o with
  | none => cases h
  | some v => exact ⟨v, rfl, h⟩

end Sys2Proof.Machine
end

section
/-! SUPPORT. The two round trips of the codec (R228, R229). -/

namespace Sys2Proof.Machine

open Sys2Proof

variable {c : Config} {m : Message}

/-- R228, variant by variant: each field of the payload is read back, an enum field by the injectivity of its codes. -/
theorem decodeRecord_encodeMessage (h : c.legal = true) (m : Message) (a : Byte) :
    decodeRecord c (encodeMessage c m a) = .ok m := by
  cases m with
  | error code =>
    refine congrArg (fun v => Except.ok (Message.error v)) (le32_of_bytes ?_ ?_ ?_ ?_) <;> rfl
  | info code arg =>
    refine congrArg₂ (fun v w => Except.ok (Message.info v w)) (le16_of_bytes ?_ ?_)
      (le32_of_bytes ?_ ?_ ?_ ?_) <;> rfl
  | outputChanged index state | setOutput index state =>
    exact enumField_of_some (decOutState_outStateCode h state)
  | inputChanged index trigger | triggerInput index trigger =>
    exact enumField_of_some (decTrigger_triggerCode h trigger)
  | callProcedure | requestStatus => rfl
  | ping body => refine congrArg (fun v => Except.ok (Message.ping v)) (le16_of_bytes ?_ ?_) <;> rfl
  | pong body => refine congrArg (fun v => Except.ok (Message.pong v)) (le16_of_bytes ?_ ?_) <;> rfl
  | statusIo index kind state =>
    exact (enumField_of_some (decIoKind_ioKindCode kind)).trans (enumField_of_some (decIoState_ioStateCode h state))
  | status uptime errors warnings =>
    refine congr (congrArg₂ (fun u e w => Except.ok (Message.status u e w)) (le32_of_bytes ?_ ?_ ?_ ?_)
      (le16_of_bytes ?_ ?_)) (le16_of_bytes ?_ ?_) <;> rfl
  | timeAnnouncement year month day hour minute second dayOfWeek =>
    refine congrArg (fun v => Except.ok (Message.timeAnnouncement v month day hour minute second dayOfWeek))
      (le16_of_bytes ?_ ?_) <;> rfl

/-- R229, type by type: the message has the record's type, and `encode` writes the bytes that were read. -/
theorem messageBytes_of_decodeRecord_ok {t : MsgType} {n : Nat} {a : DevAddr} {p : Payload} (hn : reqLen t = some n)
    (h : decodeRecord c ⟨a, t.code, n, p⟩ = .ok m) : messageType m = t ∧ messageBytes c m = p.toList.take n := by
  cases t with
  | shutterCommand => cases hn
  | callProcedure | requestStatus =>
    cases hn
    cases h
    exact ⟨rfl, rfl⟩
  | error =>
    cases hn
    cases h
    exact ⟨rfl, bytesLe32_le32 p 0⟩
  | pong | ping =>
    cases hn
    cases h
    exact ⟨rfl, bytesLe16_le16 p 0⟩
  | info =>
    cases hn
    cases h
    exact ⟨rfl, congrArg₂ (· ++ ·) (bytesLe16_le16 p 0) (bytesLe32_le32 p 2)⟩
  | status =>
    cases hn
    cases h
    have hcounters := congrArg₂ (· ++ ·) (bytesLe32_le32 p 0) (bytesLe16_le16 p 4)
    exact ⟨rfl, congrArg₂ (· ++ ·) hcounters (bytesLe16_le16 p 6)⟩
  | timeAnnouncement =>
    cases hn
    cases h
    exact ⟨rfl, congrArg (· ++ [p.b2, p.b3, p.b4, p.b5, p.b6, p.b7]) (bytesLe16_le16 p 0)⟩
  | outputChanged | setOutput =>
    cases hn
    obtain ⟨v, hv, hm⟩ := enumField_ok h
    cases hm
    exact ⟨rfl, congrArg ([p.b0, ·]) (outStateCode_of_decOutState hv)⟩
  | inputChanged | triggerInput =>
    cases hn
    obtain ⟨v, hv, hm⟩ := enumField_ok h
    cases hm
    exact ⟨rfl, congrArg ([p.b0, ·]) (triggerCode_of_decTrigger hv)⟩
  | statusIo =>
    cases hn
    obtain ⟨k, hk, hrest⟩ := enumField_ok h
    obtain ⟨v, hv, hm⟩ := enumField_ok hrest
    cases hm
    exact ⟨rfl, congrArg₂ ([p.b0, ·, ·]) (ioKindCode_of_decIoKind hk) (ioStateCode_of_decIoState hv)⟩

/-- A record that decodes to a message is of a type with a layout, and of its length (R218, R219). -/
theorem codeLen_of_decodeRecord_ok {r : WireRecord} (h : decodeRecord c r = .ok m) :
    codeLen r.msgType = some r.length := by
  cases hk : codeLen r.msgType with
  | none =>
    rw [decodeRecord_of_codeLen_none hk] at h
    cases h
  | some n =>
    obtain ⟨t, ht, hn⟩ := codeLen_eq_some_iff.1 hk
    by_cases hl : r.length = n
    · rw [hl]
    · rw [decodeRecord_of_length_ne ht.symm hn hl] at h
      cases h

/-- Whatever its tail, a record that decodes to a message is what `encode` writes for it, once the tail is cut. -/
theorem encodeMessage_of_decodeRecord_ok {r : WireRecord} (h : decodeRecord c r = .ok m) :
    encodeMessage c m (r.addr.setWidth 8) = { r with payload := cutPayload r.length r.payload } := by
  obtain ⟨t, ht, hn⟩ := codeLen_eq_some_iff.1 (codeLen_of_decodeRecord_ok h)
  obtain ⟨a, k, n, p⟩ := r
  subst ht
  obtain ⟨rfl, hbytes⟩ := messageBytes_of_decodeRecord_ok hn h
  have hlen : (messageBytes c m).length = n := Option.some.inj ((reqLen_messageType c m).symm.trans hn)
  rw [encodeMessage_setWidth, hlen, hbytes, payloadOfBytes_take (reqLen_le hn)]

/-- Settles O40: the round trip (`decodeRecord_encodeMessage`), and the length field is the type's (R215). -/
theorem decodeInvertsEncode : Obligations.DecodeInvertsEncode := fun c m a h =>
  ⟨decodeRecord_encodeMessage h m a, by rw [encodeMessage_length, reqLen_messageType c]⟩

/-- Settles O41: a well-formed record has no tail to cut. -/
theorem encodeInvertsDecode : Obligations.EncodeInvertsDecode := by
  intro c r m hw h
  obtain ⟨-, htail⟩ := WireRecord.wf_iff.1 hw
  rw [encodeMessage_of_decodeRecord_ok h, cutPayload_of_zeroTail htail]

end Sys2Proof.Machine
end

section
/-! SUPPORT. The combined address by its numbers (R240 to R242), and the frame of the codec calls (R211). -/

namespace Sys2Proof.Machine

open Sys2Proof

/-- R240 by arithmetic: the masked fields do not overlap, so the disjunction is a sum. -/
theorem toNat_toCanAddr (a t : Byte) : (toCanAddr a t).toNat = (t.toNat % 32) * 64 + a.toNat % 64 := by
  have haddr : (a &&& 0x3F).toNat = a.toNat % 64 := toNat_and_mask (k := 6) a (by decide)
  have htype : (t &&& 0x1F).toNat = t.toNat % 32 := toNat_and_mask (k := 5) t (by decide)
  have hlow : a.toNat % 64 < 2 ^ 6 := Nat.mod_lt _ (by decide)
  have hfits : (t.toNat % 32) <<< 6 < 2 ^ 16 := by
    rw [Nat.shiftLeft_eq]
    omega
  rw [toCanAddr, BitVec.toNat_or, BitVec.toNat_shiftLeft, BitVec.toNat_setWidth_of_le (by decide),
    BitVec.toNat_setWidth_of_le (by decide), haddr, htype, Nat.mod_eq_of_lt hfits,
    ← Nat.shiftLeft_add_eq_or_of_lt hlow, Nat.shiftLeft_eq]

theorem toNat_toCanAddr_fields (a : DevAddr) (t : TypeCode) :
    (toCanAddr (a.setWidth 8) (t.setWidth 8)).toNat = t.toNat * 64 + a.toNat := by
  rw [toNat_toCanAddr, BitVec.toNat_setWidth_of_le (by decide), BitVec.toNat_setWidth_of_le (by decide)]
  omega

/-- R241 by arithmetic: the address. -/
theorem toNat_splitCanAddr_addr (w : BitVec 16) : (splitCanAddr w).1.toNat = w.toNat % 64 := by
  have hmask : (splitCanAddr w).1 = w.setWidth 6 := setWidth_and_mask w (by decide)
  rw [hmask, BitVec.toNat_setWidth]

/-- R241 by arithmetic: the type. -/
theorem toNat_splitCanAddr_type (w : BitVec 16) : (splitCanAddr w).2.toNat = w.toNat / 64 % 32 := by
  have hmask : (splitCanAddr w).2 = (w >>> 6).setWidth 5 := setWidth_and_mask (w >>> 6) (by decide)
  rw [hmask, BitVec.toNat_setWidth, BitVec.toNat_ushiftRight, Nat.shiftRight_eq_div_pow]

/-- Packing the fields of an 11-bit value gives the value (R242). -/
theorem toCanAddr_splitCanAddr {w : BitVec 16} (h : w.toNat < 2048) :
    toCanAddr ((splitCanAddr w).1.setWidth 8) ((splitCanAddr w).2.setWidth 8) = w := by
  refine BitVec.eq_of_toNat_eq ?_
  rw [toNat_toCanAddr_fields, toNat_splitCanAddr_addr, toNat_splitCanAddr_type]
  omega

/-- For one address the type decides the order, because it stands above the address (R242). -/
theorem toCanAddr_lt_of_type_lt (a : DevAddr) {t u : TypeCode} (h : t.toNat < u.toNat) :
    (toCanAddr (a.setWidth 8) (t.setWidth 8)).toNat < (toCanAddr (a.setWidth 8) (u.setWidth 8)).toNat := by
  rw [toNat_toCanAddr_fields, toNat_toCanAddr_fields]
  omega

/-- Settles O45: the sum of `toNat_toCanAddr`, whose two parts are at most 31 * 64 and 63. -/
theorem toCanPacksTheFields : Obligations.ToCanPacksTheFields := fun _ a t =>
  ⟨toCanAddr a t, rfl, toNat_toCanAddr a t, by rw [toNat_toCanAddr]; omega⟩

/-- Settles O46: the two fields of the answer by their numbers. -/
theorem splitCanTakesTheFields : Obligations.SplitCanTakesTheFields := fun _ w =>
  ⟨(splitCanAddr w).1, (splitCanAddr w).2, rfl, toNat_splitCanAddr_addr w, toNat_splitCanAddr_type w⟩

/-- Settles O47: both directions and the order, each by its own lemma. -/
theorem canPackingIsInvertible : Obligations.CanPackingIsInvertible :=
  ⟨splitCanAddr_toCanAddr, fun _ => toCanAddr_splitCanAddr, fun a _ _ => toCanAddr_lt_of_type_lt a⟩

/-- A codec call that goes on has answered on its port and done nothing else (R211). -/
theorem exec_codecCall_next {i : Instr} {s t : State} (hi : isCodecCall i = true) (h : exec i s = .next t) :
    ∃ a, t = answering a s := by
  cases i with
  | errorCan | outputChangedCan | inputChangedCan | setOutputCan | triggerInputCan | callProcedureCan
  | shutterCommandCan | requestStatusCan | statusIoCan | statusCan | timeAnnouncementCan | infoCan | pongCan
  | pingCan => exact receiveCan_next h
  | decode r =>
    obtain ⟨-, rfl⟩ := execDecode_next h
    exact ⟨_, rfl⟩
  | encode | toCan | splitCan =>
    cases h
    exact ⟨_, rfl⟩
  | _ => cases hi

/-- Settles O44: the next state of a codec call is the old one with another answer (`exec_codecCall_next`). -/
theorem codecCallsChangeNothing : Obligations.CodecCallsChangeNothing := by
  intro i s t hi h
  obtain ⟨a, rfl⟩ := exec_codecCall_next hi h
  rfl

end Sys2Proof.Machine
end

section
/-! SUPPORT. The message layouts (R250 to R264): what DECODE and ENCODE do for one type is said once, so that each
layout is left with its own fields. -/

namespace Sys2Proof.Machine

open Sys2Proof

variable {m : Message} {n : Nat}

/-! ## One type's layout (R250) -/

/-- R250 for DECODE: a layout is known by what it gives of the records of its own length (R219). -/
theorem decodesAs_of_layout {dec : Config → Payload → Decoded} (t : MsgType) (hn : reqLen t = some n)
    (h : ∀ c a p, decodeRecord c ⟨a, t.code, n, p⟩ = dec c p) : decodesAs t.code n dec := by
  intro s a l p hw
  rw [exec_decode_of_wf (r := ⟨a, t.code, l, p⟩) hw]
  by_cases hl : l = n
  · rw [if_pos hl, hl, h]
  · rw [if_neg hl, decodeRecord_of_length_ne rfl hn hl]

/-- R226: the masked address is the low 6 bits of the byte. -/
theorem encodeMessage_addr (c : Config) (m : Message) (a : Byte) :
    (encodeMessage c m a).addr = a.extractLsb' 0 6 :=
  (setWidth_and_mask (k := 6) a (by decide)).trans (BitVec.setWidth_eq_extractLsb' (by decide))

/-- R250 for ENCODE: a layout is known by the payload of its bytes (R225). -/
theorem encodesAs_of_messageBytes {pay : Config → Payload} (hn : reqLen (messageType m) = some n)
    (h : ∀ c, payloadOfBytes (messageBytes c m) = pay c) : encodesAs m (messageType m).code n pay := by
  intro s a
  have hrec : encodeMessage s.cfg m a = ⟨a.extractLsb' 0 6, (messageType m).code, n, pay s.cfg⟩ := by
    rw [← encodeMessage_addr s.cfg m a, ← h s.cfg, encodeMessage, hn, Option.getD_some]
  rw [← hrec]
  rfl

/-! ## Enum bytes as chains of comparisons (R99) -/

/-- The lookup compares the byte with the first member's code, then goes on with the other members. -/
theorem enumField_find?_cons {α : Type} (f : α → Byte) (b : Byte) (x : α) (l : List α) (k : α → Decoded) :
    enumField ((x :: l).find? fun y => f y == b) k =
      if b = f x then k x else enumField (l.find? fun y => f y == b) k := by
  by_cases h : b = f x
  · simp [← h, enumField]
  · simp [h, Ne.symm h]

theorem enumField_decOutState (c : Config) (b : Byte) (k : OutputState → Message) :
    enumField (decOutState c b) (fun v => .ok (k v)) = outStateOf c b k := by
  simp only [decOutState, enumField_find?_cons]
  rfl

theorem enumField_decTrigger (c : Config) (b : Byte) (k : Trigger → Message) :
    enumField (decTrigger c b) (fun v => .ok (k v)) = triggerOf c b k := by
  simp only [decTrigger, enumField_find?_cons]
  rfl

theorem enumField_decIoKind (b : Byte) (k : IoKind → Decoded) :
    enumField (decIoKind b) k =
      if b = 0 then k .input else if b = 1 then k .output else .error .invalidEnumValue := by
  simp only [decIoKind, enumField_find?_cons]
  rfl

theorem enumField_decIoState (c : Config) (b : Byte) (k : IoState → Decoded) :
    enumField (decIoState c b) k =
      if b = c.ioState.off then k .off else if b = c.ioState.on then k .on else .error .invalidEnumValue := by
  simp only [decIoState, enumField_find?_cons]
  rfl

/-! ## The layouts -/

/-- Settles O27: one four-byte field, read by `le32_eq_append` and written by `bytesLe32_append`. -/
theorem errorMessageLayout : Obligations.ErrorMessageLayout := by
  refine ⟨decodesAs_of_layout .error rfl fun _ _ p => ?_, fun c0 c1 c2 c3 => encodesAs_of_messageBytes rfl fun _ => ?_,
    by decide⟩
  · exact congrArg (fun v => Except.ok (Message.error v)) (le32_eq_append p 0)
  · exact congrArg payloadOfBytes (bytesLe32_append c0 c1 c2 c3)

/-- Settles O28: the state byte is compared with the codes in turn (`enumField_decOutState`). -/
theorem outputMessageLayouts : Obligations.OutputMessageLayouts := by
  refine ⟨decodesAs_of_layout .outputChanged rfl fun c _ p => ?_, decodesAs_of_layout .setOutput rfl fun c _ p => ?_,
    fun index => ⟨?_, ?_, ?_, ?_, ?_, ?_⟩, by decide, by decide⟩
  · exact enumField_decOutState c p.b1 (.outputChanged p.b0)
  · exact enumField_decOutState c p.b1 (.setOutput p.b0)
  all_goals exact encodesAs_of_messageBytes rfl fun _ => rfl

/-- Settles O29: the trigger byte is compared with the codes in turn (`enumField_decTrigger`). -/
theorem inputMessageLayouts : Obligations.InputMessageLayouts := by
  refine ⟨decodesAs_of_layout .inputChanged rfl fun c _ p => ?_, decodesAs_of_layout .triggerInput rfl fun c _ p => ?_,
    fun index g => ⟨encodesAs_of_messageBytes rfl fun _ => rfl, encodesAs_of_messageBytes rfl fun _ => rfl⟩,
    fun c => ⟨rfl, rfl, rfl, rfl, rfl, rfl⟩, by decide, by decide⟩
  · exact enumField_decTrigger c p.b1 (.inputChanged p.b0)
  · exact enumField_decTrigger c p.b1 (.triggerInput p.b0)

/-- Settles O30: the one payload byte is the field. -/
theorem callProcedureMessageLayout : Obligations.CallProcedureMessageLayout :=
  ⟨decodesAs_of_layout .callProcedure rfl fun _ _ _ => rfl, fun _ => encodesAs_of_messageBytes rfl fun _ => rfl,
    by decide⟩

/-- R101: SHUTTER_COMMAND has a code and no layout. -/
theorem decodeRecord_shutterCommand (c : Config) (a : DevAddr) (n : Nat) (p : Payload) :
    decodeRecord c ⟨a, 0x0B, n, p⟩ = .error .unknownType :=
  decodeRecord_of_codeLen_none (codeLen_code .shutterCommand)

/-- Settles O31: framing and reception do not ask for a layout, `decode` does, and a code without one is the code of no
variant (`codeLen_eq_none_iff`). -/
theorem shutterCommandIsCarriedButUnknown : Obligations.ShutterCommandIsCarriedButUnknown := by
  refine ⟨fun s a n p hw => ⟨?_, frameChunk_serialize (r := ⟨a, 0x0B, n, p⟩) hw, fun hg => ?_⟩,
    fun _ m _ => codeLen_eq_none_iff.1 (codeLen_code .shutterCommand) m⟩
  · rw [exec_decode_of_wf (r := ⟨a, 0x0B, n, p⟩) hw, decodeRecord_shutterCommand]
  · rw [← decodeRecord_shutterCommand s.cfg a n p]
    exact exec_frameInstr_of_reading a .shutterCommand hg hw

/-- Settles O32: the layout is empty. -/
theorem requestStatusMessageLayout : Obligations.RequestStatusMessageLayout :=
  ⟨decodesAs_of_layout .requestStatus rfl fun _ _ _ => rfl, encodesAs_of_messageBytes rfl fun _ => rfl, by decide⟩

/-- Settles O33: the kind byte is looked up first, and under each kind the state byte. -/
theorem statusIoMessageLayout : Obligations.StatusIoMessageLayout := by
  refine ⟨decodesAs_of_layout .statusIo rfl fun c a p => ?_, fun index => ⟨?_, ?_, ?_, ?_⟩, by decide⟩
  · have hfields : decodeRecord c ⟨a, MsgType.statusIo.code, 3, p⟩ =
        enumField (decIoKind p.b1) fun k => enumField (decIoState c p.b2) fun v => .ok (.statusIo p.b0 k v) := rfl
    rw [hfields, enumField_decIoKind, enumField_decIoState, enumField_decIoState]
  all_goals exact encodesAs_of_messageBytes rfl fun _ => rfl

/-- Settles O34: a four-byte field and two two-byte fields fill the payload. -/
theorem statusMessageLayout : Obligations.StatusMessageLayout := by
  refine ⟨decodesAs_of_layout .status rfl fun _ _ p => ?_,
    fun u0 u1 u2 u3 e0 e1 w0 w1 => encodesAs_of_messageBytes rfl fun _ => ?_, by decide⟩
  · exact congr (congrArg₂ (fun u e w => Except.ok (Message.status u e w)) (le32_eq_append p 0) (le16_eq_append p 4))
      (le16_eq_append p 6)
  · rw [messageBytes, bytesLe32_append, bytesLe16_append, bytesLe16_append]
    rfl

/-- Settles O35: a two-byte year, and six bytes taken as they are. -/
theorem timeAnnouncementMessageLayout : Obligations.TimeAnnouncementMessageLayout := by
  refine ⟨decodesAs_of_layout .timeAnnouncement rfl fun _ _ p => ?_,
    fun y0 y1 mo d h mi se w => encodesAs_of_messageBytes rfl fun _ => ?_, by decide⟩
  · exact congrArg (fun y => Except.ok (Message.timeAnnouncement y p.b2 p.b3 p.b4 p.b5 p.b6 p.b7)) (le16_eq_append p 0)
  · rw [messageBytes, bytesLe16_append]
    rfl

/-- Settles O36: a two-byte field, then a four-byte field. -/
theorem infoMessageLayout : Obligations.InfoMessageLayout := by
  refine ⟨decodesAs_of_layout .info rfl fun _ _ p => ?_,
    fun c0 c1 a0 a1 a2 a3 => encodesAs_of_messageBytes rfl fun _ => ?_, by decide⟩
  · exact congrArg₂ (fun v w => Except.ok (Message.info v w)) (le16_eq_append p 0) (le32_eq_append p 2)
  · rw [messageBytes, bytesLe16_append, bytesLe32_append]
    rfl

/-- Settles O37: one two-byte field, read by `le16_eq_append` and written by `bytesLe16_append`. -/
theorem pongAndPingMessageLayouts : Obligations.PongAndPingMessageLayouts := by
  refine ⟨decodesAs_of_layout .pong rfl fun _ _ p => ?_, decodesAs_of_layout .ping rfl fun _ _ p => ?_,
    fun b0 b1 => ⟨encodesAs_of_messageBytes rfl fun _ => ?_, encodesAs_of_messageBytes rfl fun _ => ?_⟩,
    by decide, by decide⟩
  · exact congrArg (fun v => Except.ok (Message.pong v)) (le16_eq_append p 0)
  · exact congrArg (fun v => Except.ok (Message.ping v)) (le16_eq_append p 0)
  · exact congrArg payloadOfBytes (bytesLe16_append b0 b1)
  · exact congrArg payloadOfBytes (bytesLe16_append b0 b1)

end Sys2Proof.Machine
end

section
/-! SUPPORT. The events of the block and what becomes of them: the non-fatal events of ING.READ, the halt step, and the
first error from its event to the block's result. -/

namespace Sys2Proof.Machine

open Sys2Proof

variable {i : Instr} {s t : State} {e : FlowErr}

/-! ## The first error (R331, R351, R353) -/

theorem blockResult_of_some (h : s.firstErr = some e) : blockResult s = .err e := by
  simp [blockResult, h]

/-- R331: a flow that ends with an error sets `first_err` only where it was `None`. -/
theorem Move.firstErr_of_some (m : Move i s t) (hi : i ≠ .reset) (h : s.firstErr = some e) : t.firstErr = some e := by
  cases m with
  | peerGone | receiverGone | writeFails => simp [h]
  | resets instr => exact absurd instr hi
  | _ => exact h

/-- R352: a halt step that is taken reports the block's result. -/
theorem execSupHalt_result (h : execSupHalt s = .next t) (moved : t.answer ≠ .suspended) :
    t.result = some (blockResult s) := by
  obtain ⟨-, -, rfl⟩ | rfl := execSupHalt_next h
  · rfl
  · exact absurd rfl moved

/-- Settles O23: no move but the reset writes a set `first_err`, and the zero-length read after EGR's clean end sets it
before the halt reads it. -/
theorem firstErrorIsReported : Obligations.FirstErrorIsReported := by
  refine ⟨fun i s t e hi he h => ⟨(exec_move h).firstErr_of_some hi he, ?_⟩, fun s hg _ hnone => ?_⟩
  · rintro rfl moved
    rw [execSupHalt_result h moved, blockResult_of_some he]
  · obtain ⟨hl, -⟩ := reading_eq_true_iff.1 hg
    have hfirst : (answering .none (endFlow .peerDisconnected s)).firstErr = some .peerDisconnected := by simp [hnone]
    exact ⟨_, _, execIngRead_zero hg, execSupHalt_of_ended (by simpa using hl) (.inl rfl),
      congrArg some (blockResult_of_some hfirst)⟩

/-! ## The non-fatal events of ING.READ (R134 to R137, R139, R339) -/

/-- What a non-fatal event writes while ING reads: its log entry alone (R331). -/
theorem answering_raise_of_reading (hg : reading s = true) (ev : Event) (info : Info) :
    answering .none (raise ev info s) = { s with ing := .read, log := s.log ++ [⟨ev, info⟩], answer := .none } := by
  obtain ⟨-, hr⟩ := reading_eq_true_iff.1 hg
  rw [← hr]
  rfl

theorem execIngRead_ioError (hg : reading s = true) :
    execIngRead .ioError s = .next (answering .none (raise .readIo .none s)) := by
  obtain ⟨hl, hr⟩ := reading_eq_true_iff.1 hg
  simp [execIngRead, hl, hr]

/-- R147: a legal chunk that fails a check is discarded with the event of that check. -/
theorem execIngRead_of_frameChunk_error {c : List Byte} {f : FrameError} (hg : reading s = true)
    (hw : (ReadResult.chunk c).wf s.cfg = true) (hc : frameChunk c = .error f) :
    execIngRead (.chunk c) s = .next (answering .none (raise (frameEvent f) (.chunkLength c.length) s)) := by
  obtain ⟨hl, hr⟩ := reading_eq_true_iff.1 hg
  obtain ⟨hne, hle⟩ := readResult_wf_chunk_iff.1 hw
  simp [execIngRead, hl, hr, readChunk, hne, Nat.not_lt.2 hle, hc]

/-- Settles O11: the four checks share one argument, and a chunk that passes them is latched
(`execIngRead_of_frameChunk_ok`). -/
theorem nonFatalReadsOnlyLog : Obligations.NonFatalReadsOnlyLog := by
  intro s hg
  refine ⟨(execIngRead_ioError hg).trans (congrArg _ (answering_raise_of_reading hg _ _)), fun c hpos hle => ?_⟩
  have hw : (ReadResult.chunk c).wf s.cfg = true := readResult_wf_chunk_iff.2 ⟨Nat.one_le_iff_ne_zero.1 hpos, hle⟩
  have discarded (f : FrameError) (hc : frameChunk c = .error f) :
      execIngRead (.chunk c) s = .next { s with
        ing := .read
        log := s.log ++ [⟨frameEvent f, .chunkLength c.length⟩]
        answer := .none } :=
    (execIngRead_of_frameChunk_error hg hw hc).trans (congrArg _ (answering_raise_of_reading hg _ _))
  exact ⟨discarded .sync, discarded .family, discarded .short, discarded .badLen,
    fun _ => execIngRead_of_frameChunk_ok hg hw⟩

/-! ## The halt step (R352, R191) -/

/-- Settles O20: the halt step is enabled, and what it writes is what the statement names field by field. -/
theorem supHaltEffect : Obligations.SupHaltEffect := fun s hl hd =>
  ⟨_, blockResult s, execSupHalt_of_ended hl hd, rfl, rfl⟩

end Sys2Proof.Machine
end

section
/-! SUPPORT. RESET (R380): its next state is `resetBlock`, whose fields the laws of the shared operations give one by one. -/

namespace Sys2Proof.Machine

open Sys2Proof

/-- R380: RESET has no guard, so it runs in every state, an ended or halted one included. -/
theorem exec_reset (s : State) : exec .reset s = .next (resetBlock s) := rfl

/-- Settles O24: the next state is `resetBlock s`, which has the reset value in every element of R26 and takes the
parameters, the TX history and the schedule from `s`. -/
theorem resetEffect : Obligations.ResetEffect := fun s =>
  ⟨resetBlock s, exec_reset s,
    resetBlock_ing s, resetBlock_egr s, resetBlock_ingq s, resetBlock_egrq s,
    resetBlock_halted s, resetBlock_firstErr s, resetBlock_result s, resetBlock_log s,
    resetBlock_cfg s, resetBlock_tx s, resetBlock_schedule s, resetBlock_answer s⟩

end Sys2Proof.Machine
end
